-- ==== Sys2Proof/Word.lean ====
section
/-! DEFINITION. The bit-vector types of the block.

All values of the block are unsigned bit vectors with bit 0 the least significant bit
(spec/00_scope.md R9); the widths are those of R6. Counts and positions are natural numbers. -/

namespace Sys2Proof

/-- One byte of the data bus, the byte stream or a host buffer (`DATA_W = 8`, R6). -/
abbrev Byte := BitVec 8

/-- A drive register address (`ADDR_W = 3`, R6). -/
abbrev RegAddr := BitVec 3

/-- A sector number as the host names it: 32 bits, of which bits 27:0 reach the drive (R63, R105). -/
abbrev Sector := BitVec 32

/-- An SD command code (`CMD_W = 6`, R6). -/
abbrev CmdCode := BitVec 6

/-- An SD command argument (`ARG_W = 32`, R6). -/
abbrev CmdArg := BitVec 32

end Sys2Proof
end

