-- ==== Sys2Proof/Syntax.lean ====
section
/-! DEFINITION. The instructions: one constructor per row of spec/opcode_table.json, with every operand the
spec gives it (R12, R91, R96, R104, R112); the enumerations of R106; the bus events of R11; and the
form in which an instruction arrives at the block (`HostItem`).

Five formats exist (R90). FRAME, TOKEN and BYTE rows arrive on the byte stream; ATACMD rows are command bytes
issued to the drive; PORT rows are operations of the host port. -/

namespace Sys2Proof

/-- The two strobe lines (R106). -/
inductive StrobeLine
  | rd
  | wr
  deriving DecidableEq, Repr

/-- The three states of a strobe line (R106). -/
inductive StrobeState
  | assert
  | negate
  | highZ
  deriving DecidableEq, Repr

/-- The direction of the data bus (R106). -/
inductive Direction
  | input
  | output
  deriving DecidableEq, Repr

/-- The addressing mode `initialize` found (R106, R30). -/
inductive Mode
  | notInitialized
  | lba
  | chs
  deriving DecidableEq, Repr

/-- The result of `waitForStatus` (R106). -/
inductive WaitResult
  | ok
  | timeout
  deriving DecidableEq, Repr

/-- One bus event, the finest observable action of the block (R11). -/
inductive BusEvent
  /-- `RD=A`, `RD=N`, `RD=Z`, `WR=A`, `WR=N`, `WR=Z`. -/
  | strobe (line : StrobeLine) (state : StrobeState)
  /-- `DIR=I`, `DIR=O`. -/
  | direction (dir : Direction)
  /-- `D<=vv`: the data output latch is loaded. -/
  | load (value : Byte)
  /-- `A<=a`: the address latch is loaded. -/
  | address (addr : RegAddr)
  /-- `D=>vv`: the data bus is sampled. -/
  | sample (value : Byte)
  deriving DecidableEq, Repr

/-- A host sector buffer passed to an operation: bytes `base`, `base + 1`, ... of host memory, `cap` bytes
long (R60 item 3). The descriptor and the widths of its fields are the model's own (log entries 17, 38). -/
structure Buffer where
  base : BitVec 32
  cap : BitVec 16
  deriving DecidableEq, Repr

/-- The instructions. In a FRAME row `arg` and `crc` are the argument and checksum fields of R91, and
`reads` is how many response bytes the host then asks for, one `produceResponseByte` each
(log entry 3); the rule named beside it is the one that answers. DESIGN CHOICE: the spec gives no width to the `size`
of `readSector` (R192: a byte count in `0..512`) nor to the `length` of `sendBlock` and `receiveBlock` (R256, R257: a
byte count, not used); both are 16 bits here (log entry 38). -/
inductive Instr
  /-- R243. -/
  | goIdleState (arg : CmdArg) (crc : Byte) (reads : Byte)
  /-- R244. -/
  | sendIfCond (arg : CmdArg) (crc : Byte) (reads : Byte)
  /-- R245. -/
  | stopTransmission (arg : CmdArg) (crc : Byte) (reads : Byte)
  /-- R246. -/
  | readMultipleBlock (arg : CmdArg) (crc : Byte) (reads : Byte)
  /-- R247. -/
  | writeMultipleBlock (arg : CmdArg) (crc : Byte) (reads : Byte)
  /-- R249. -/
  | sdSendOpCond (arg : CmdArg) (crc : Byte) (reads : Byte)
  /-- R248. -/
  | appCmd (arg : CmdArg) (crc : Byte) (reads : Byte)
  /-- R250. -/
  | readOcr (arg : CmdArg) (crc : Byte) (reads : Byte)
  /-- R251: any other code. -/
  | unrecognizedCommand (cmd : CmdCode) (arg : CmdArg) (crc : Byte) (reads : Byte)
  /-- R221: the byte `0xFC`. -/
  | tokenStartBlock
  /-- R222: the byte `0xFD`. -/
  | tokenStopTran
  /-- R223: the byte `0xFF`. -/
  | tokenIdleFF
  /-- R228: `0xF0..0xFB` and `0xFE`. -/
  | tokenIgnored (value : Byte)
  /-- R225. -/
  | argByte (value : Byte)
  /-- R226. -/
  | crcByte (value : Byte)
  /-- R227. -/
  | strayByte (value : Byte)
  /-- R192, R104: the read command byte. -/
  | ataReadSectors
  /-- R195, R104: the write command byte. -/
  | ataWriteSectors
  /-- R176, R104: the initialize-device-parameters command byte. -/
  | ataInitDeviceParams
  /-- R179, R104: the set-features command byte. -/
  | ataSetFeatures
  /-- R131. -/
  | setStrobe (line : StrobeLine) (state : StrobeState)
  /-- R132. -/
  | setDataBusDirection (dir : Direction)
  /-- R133. -/
  | writeDataBus (value : Byte)
  /-- R134. -/
  | readDataBus
  /-- R135. -/
  | setRegisterAddress (addr : RegAddr)
  /-- R150. -/
  | readRegister (addr : RegAddr)
  /-- R152. -/
  | writeRegister (addr : RegAddr) (value : Byte)
  /-- R154; the mask is `0x00` when left out. -/
  | waitForStatus (mask : Byte)
  /-- R170: the operation `initialize`; `preferLba` is true when left out. -/
  | initializeDrive (preferLba : Bool)
  /-- R192; 16 bits of `size` are the model's choice (log entry 38). -/
  | readSector (sector : Sector) (size : BitVec 16) (buf : Buffer)
  /-- R195. -/
  | writeSector (sector : Sector) (buf : Buffer)
  /-- R197. -/
  | readMultiple (sector : Sector) (buf : Buffer)
  /-- R198. -/
  | writeMultiple (sector : Sector) (buf : Buffer)
  /-- R220. -/
  | consumeByte (value : Byte)
  /-- R241. -/
  | produceResponseByte (command : CmdCode)
  /-- R256; 16 bits of `length`, which has no effect, are the model's choice (log entry 38). -/
  | sendBlock (buf : Buffer) (length : BitVec 16)
  /-- R257; 16 bits of `length`, which has no effect, are the model's choice (log entry 38). -/
  | receiveBlock (buf : Buffer) (length : BitVec 16)
  deriving DecidableEq, Repr

/-- How an item reaches the block (R90): a whole frame, one stream byte (TOKEN and BYTE rows, told
apart by position, R95), an ATA command byte, or a host-port operation. -/
inductive Format
  | frame
  | stream
  | atacmd
  | port
  deriving DecidableEq, Repr

/-- One item at the host port, before decoding. -/
structure HostItem where
  fmt : Format
  bytes : List Byte
  deriving DecidableEq, Repr

end Sys2Proof
end

