-- ==== Sys2Proof/Config.lean ====
section
/-! DEFINITION. The configuration of the block: the parameters the spec fixes (R6), the two it names
(R7, R32), and those it leaves open (R8), with the spec's recommended defaults; and the free values.

The configuration is constant for a run: State carries it in one field that no operation writes
(log entry 7). The defaults of the register addresses, masks, ATA bytes and SD codes are PRESUMED
(the spec marks them as general knowledge; log entries 8 to 11). -/

namespace Sys2Proof

/-- `SECTOR_SIZE = 512` (R6). -/
def sectorSize : Nat := 512

/-- `FRAME_LEN = 6` (R6). -/
def frameLen : Nat := 6

/-- `STATUS_POLL_INTERVAL` in milliseconds (R6). -/
def statusPollIntervalMs : Nat := 1

/-- An electrical level (R26). -/
inductive Level
  | low
  | high
  deriving DecidableEq, Repr

/-- The opposite level (R26: Negate drives the level opposite to Assert). -/
def Level.opposite : Level → Level
  | .low => .high
  | .high => .low

/-- The thirteen Response Table Entries (R42), in the order of the rule. -/
inductive Entry
  | idle
  | idleErr
  | ifCond
  | stop
  | readFirst
  | readNext
  | wrStart
  | wrEnd1
  | wrEndN
  | wrNext
  | appCmd
  | opCond
  | ocr
  deriving DecidableEq, Repr

/-- All thirteen entries. -/
def Entry.all : List Entry :=
  [.idle, .idleErr, .ifCond, .stop, .readFirst, .readNext, .wrStart, .wrEnd1, .wrEndN, .wrNext,
    .appCmd, .opCond, .ocr]

/-- One value for each Response Table Entry: `RESP[e]` and `COUNT[e]` have this shape (R41, R42). -/
structure PerEntry (α : Type) where
  idle : α
  idleErr : α
  ifCond : α
  stop : α
  readFirst : α
  readNext : α
  wrStart : α
  wrEnd1 : α
  wrEndN : α
  wrNext : α
  appCmd : α
  opCond : α
  ocr : α
  deriving DecidableEq, Repr

/-- The value at entry `e`. -/
def PerEntry.get {α : Type} (p : PerEntry α) : Entry → α
  | .idle => p.idle
  | .idleErr => p.idleErr
  | .ifCond => p.ifCond
  | .stop => p.stop
  | .readFirst => p.readFirst
  | .readNext => p.readNext
  | .wrStart => p.wrStart
  | .wrEnd1 => p.wrEnd1
  | .wrEndN => p.wrEndN
  | .wrNext => p.wrNext
  | .appCmd => p.appCmd
  | .opCond => p.opCond
  | .ocr => p.ocr

/-- The same values but for entry `e`, which holds `v`. -/
def PerEntry.set {α : Type} (p : PerEntry α) (e : Entry) (v : α) : PerEntry α :=
  match e with
  | .idle => { p with idle := v }
  | .idleErr => { p with idleErr := v }
  | .ifCond => { p with ifCond := v }
  | .stop => { p with stop := v }
  | .readFirst => { p with readFirst := v }
  | .readNext => { p with readNext := v }
  | .wrStart => { p with wrStart := v }
  | .wrEnd1 => { p with wrEnd1 := v }
  | .wrEndN => { p with wrEndN := v }
  | .wrNext => { p with wrNext := v }
  | .appCmd => { p with appCmd := v }
  | .opCond => { p with opCond := v }
  | .ocr => { p with ocr := v }

/-- The table whose entry `e` is `f e`. -/
def PerEntry.of {α : Type} (f : Entry → α) : PerEntry α where
  idle := f .idle
  idleErr := f .idleErr
  ifCond := f .ifCond
  stop := f .stop
  readFirst := f .readFirst
  readNext := f .readNext
  wrStart := f .wrStart
  wrEnd1 := f .wrEnd1
  wrEndN := f .wrEndN
  wrNext := f .wrNext
  appCmd := f .appCmd
  opCond := f .opCond
  ocr := f .ocr

/-- The configuration of one block. The field names follow R7 and R8. -/
structure Config where
  strobeActiveLevel : Level
  regData : RegAddr
  regErrFeat : RegAddr
  regSecCount : RegAddr
  regLba0 : RegAddr
  regLba1 : RegAddr
  regLba2 : RegAddr
  regDriveHead : RegAddr
  regStatusCmd : RegAddr
  stBsy : Byte
  stDrdy : Byte
  stDrq : Byte
  erAbrt : Byte
  dhLba : Byte
  ataRead : Byte
  ataWrite : Byte
  ataInitParams : Byte
  ataSetFeatures : Byte
  feat8Bit : Byte
  sdGoIdle : CmdCode
  sdSendIfCond : CmdCode
  sdStopTransmission : CmdCode
  sdReadMultiple : CmdCode
  sdWriteMultiple : CmdCode
  sdSendOpCond : CmdCode
  sdAppCmd : CmdCode
  sdReadOcr : CmdCode
  resp : PerEntry (List Byte)
  initReadyPolls : Nat
  statusTimeoutMs : Nat
  preferLba : Bool
  deriving DecidableEq, Repr

/-- `STATUS_TIMEOUT_POLLS = statusTimeoutMs / STATUS_POLL_INTERVAL` (R7, 90_conflicts.md C6). -/
def Config.statusTimeoutPolls (c : Config) : Nat := c.statusTimeoutMs / statusPollIntervalMs

/-- The eight recognized SD command codes, in the order of R98. -/
def Config.sdCodes (c : Config) : List CmdCode :=
  [c.sdGoIdle, c.sdSendIfCond, c.sdStopTransmission, c.sdReadMultiple, c.sdWriteMultiple,
    c.sdSendOpCond, c.sdAppCmd, c.sdReadOcr]

/-- The four ATA command bytes, in the order of R104. -/
def Config.ataCodes (c : Config) : List Byte :=
  [c.ataRead, c.ataWrite, c.ataInitParams, c.ataSetFeatures]

/-- `RESP[e][0]`: the number of payload bytes of entry `e` (R108); 0 for a table row with no length byte,
which `Config.Wf` excludes. -/
def Config.respLen (c : Config) (e : Entry) : Nat :=
  match c.resp.get e with
  | [] => 0
  | l :: _ => l.toNat

/-- A row of the response table has the form of R108: `[L, p1, ..., pL]` with `1 <= L <= 255`. -/
abbrev RespRowWf (row : List Byte) : Prop :=
  match row with
  | [] => False
  | l :: payload => 1 ≤ l.toNat ∧ payload.length = l.toNat

/-- The constraints on a configuration: the eight SD codes are pairwise distinct and none is 17
(R98, D7); every row of the response table has the form of R108; `T_READ_NEXT` is shorter than
`T_READ_FIRST` (R109). That the four ATA command bytes are pairwise distinct is DEDUCED (log entry 10). -/
abbrev Config.Wf (c : Config) : Prop :=
  c.sdCodes.Nodup ∧ (17#6 ∉ c.sdCodes) ∧ c.ataCodes.Nodup ∧
    (∀ e ∈ Entry.all, RespRowWf (c.resp.get e)) ∧ c.respLen .readNext < c.respLen .readFirst

/-- Free value: seeds the length of a response entry, which the spec leaves open (R109, U16). -/
opaque Config.freeRespLen : Entry → Nat

/-- Free value: payload byte `k` of a response entry, which the spec leaves open (R109, U16). -/
opaque Config.freeRespByte : Entry → Nat → Byte

/-- Free value: what a response entry reads as past its last payload byte. R240 reads such a byte only in
states that no run reaches (R46 e); the spec states no value there (log entry 13). -/
opaque Config.freeRespPastEnd : Entry → Nat → Byte

/-- Free value: the byte the drive answers to a sample, given the whole history of bus events so far,
newest first (R76, U5). -/
opaque Config.freeDriveAnswer : List BusEvent → Byte

/-- The length of an entry of the free response table: any table that meets R108 and R109 has lengths of
this form. -/
def Config.freeLen : Entry → Nat
  | .readNext => 1 + Config.freeRespLen .readNext % 254
  | .readFirst =>
      2 + Config.freeRespLen .readNext % 254 +
        Config.freeRespLen .readFirst % (254 - Config.freeRespLen .readNext % 254)
  | e => 1 + Config.freeRespLen e % 255

/-- A row of the free response table. -/
def Config.freeRow (e : Entry) : List Byte :=
  BitVec.ofNat 8 (Config.freeLen e) ::
    (List.range (Config.freeLen e)).map (Config.freeRespByte e)

/-- The configuration a run starts with: the defaults of R7 and R8; the response table is free. -/
def Config.default : Config where
  strobeActiveLevel := .low
  regData := 0
  regErrFeat := 1
  regSecCount := 2
  regLba0 := 3
  regLba1 := 4
  regLba2 := 5
  regDriveHead := 6
  regStatusCmd := 7
  stBsy := 0x80
  stDrdy := 0x40
  stDrq := 0x08
  erAbrt := 0x04
  dhLba := 0x40
  ataRead := 0x20
  ataWrite := 0x30
  ataInitParams := 0x91
  ataSetFeatures := 0xEF
  feat8Bit := 0x01
  sdGoIdle := 0
  sdSendIfCond := 8
  sdStopTransmission := 12
  sdReadMultiple := 18
  sdWriteMultiple := 25
  sdSendOpCond := 41
  sdAppCmd := 55
  sdReadOcr := 58
  resp := PerEntry.of Config.freeRow
  initReadyPolls := 30
  statusTimeoutMs := 100
  preferLba := true

end Sys2Proof
end

