-- ==== Sys2Proof/WellFormed.lean ====
section
/-! DEFINITION. Which instructions are well formed, under a configuration: the value ranges that the rows of
spec/opcode_table.json put on their operands (the conditions of the UNRECOGNIZED_COMMAND,
TOKEN_IGNORED and STRAY_BYTE rows), and the stream position a row requires (its ARGPOS condition). -/

namespace Sys2Proof

/-- `b[7:4] = 0xF`: a control token when no frame is open (R96). -/
abbrev IsToken (b : Byte) : Prop := b.extractLsb' 4 4 = 0xF#4

/-- `b[7:6] = 0b01`: a command byte when no frame is open (R92). -/
abbrev IsCommandByte (b : Byte) : Prop := b.extractLsb' 6 2 = 0b01#2

/-- A token with no action of its own: not `0xFC`, `0xFD` or `0xFF` (R228). -/
abbrev IsIgnoredToken (b : Byte) : Prop := IsToken b ∧ b ≠ 0xFC#8 ∧ b ≠ 0xFD#8 ∧ b ≠ 0xFF#8

/-- Neither a token nor a command byte (R227). -/
abbrev IsStrayByte (b : Byte) : Prop := ¬ IsToken b ∧ ¬ IsCommandByte b

/-- The code is none of the eight recognized ones (R99). -/
abbrev IsUnrecognized (c : Config) (cmd : CmdCode) : Prop := cmd ∉ c.sdCodes

/-- The operand ranges of the opcode table's rows. -/
def Instr.wf (c : Config) : Instr → Bool
  | .unrecognizedCommand cmd _ _ _ => decide (IsUnrecognized c cmd)
  | .tokenIgnored b => decide (IsIgnoredToken b)
  | .strayByte b => decide (IsStrayByte b)
  | .goIdleState _ _ _ | .sendIfCond _ _ _ | .stopTransmission _ _ _ | .readMultipleBlock _ _ _
  | .writeMultipleBlock _ _ _ | .sdSendOpCond _ _ _ | .appCmd _ _ _ | .readOcr _ _ _
  | .tokenStartBlock | .tokenStopTran | .tokenIdleFF | .argByte _ | .crcByte _
  | .ataReadSectors | .ataWriteSectors | .ataInitDeviceParams | .ataSetFeatures
  | .setStrobe _ _ | .setDataBusDirection _ | .writeDataBus _ | .readDataBus
  | .setRegisterAddress _ | .readRegister _ | .writeRegister _ _ | .waitForStatus _
  | .initializeDrive _ | .readSector _ _ _ | .writeSector _ _ | .readMultiple _ _
  | .writeMultiple _ _ | .consumeByte _ | .produceResponseByte _ | .sendBlock _ _
  | .receiveBlock _ _ => true

/-- The ARGPOS condition of a TOKEN or BYTE row (R95, R114; an `ARGPOS` above 5 is reached by no run, R34,
and counts as 5 there as in R220). A frame is taken as a whole item at any position (log entry 5), and
the other formats have no position. -/
def Instr.atPosition (pos : Nat) : Instr → Bool
  | .tokenStartBlock | .tokenStopTran | .tokenIdleFF | .tokenIgnored _ | .strayByte _ => pos == 0
  | .argByte _ => decide (1 ≤ pos ∧ pos ≤ 4)
  | .crcByte _ => decide (5 ≤ pos)
  | .goIdleState _ _ _ | .sendIfCond _ _ _ | .stopTransmission _ _ _ | .readMultipleBlock _ _ _
  | .writeMultipleBlock _ _ _ | .sdSendOpCond _ _ _ | .appCmd _ _ _ | .readOcr _ _ _
  | .unrecognizedCommand _ _ _ _
  | .ataReadSectors | .ataWriteSectors | .ataInitDeviceParams | .ataSetFeatures
  | .setStrobe _ _ | .setDataBusDirection _ | .writeDataBus _ | .readDataBus
  | .setRegisterAddress _ | .readRegister _ | .writeRegister _ _ | .waitForStatus _
  | .initializeDrive _ | .readSector _ _ _ | .writeSector _ _ | .readMultiple _ _
  | .writeMultiple _ _ | .consumeByte _ | .produceResponseByte _ | .sendBlock _ _
  | .receiveBlock _ _ => true

end Sys2Proof
end

