-- ==== Sys2Proof/Decode.lean ====
section
/-! DEFINITION. The decoder, total on any item at any stream position, rejecting by name; after it the encoder;
the bit-field and byte-order helpers both use; and the reading of an opcode-table word.

The encodings of frames, tokens, stream bytes and ATA command bytes are the spec's (R91 to R96, R104). Of a
host-port operation the spec gives only the 5-bit selector (R112); the operand bytes after it are the
model's own (log entry 2). -/

namespace Sys2Proof

/-- Four bytes, the first one most significant (R65). -/
def join32 (b3 b2 b1 b0 : Byte) : BitVec 32 := b3 ++ b2 ++ b1 ++ b0

/-- Two bytes, the first one most significant. -/
def join16 (b1 b0 : Byte) : BitVec 16 := b1 ++ b0

/-- The four bytes of a value, most significant first (R65). -/
def split32 (v : BitVec 32) : List Byte :=
  [v.extractLsb' 24 8, v.extractLsb' 16 8, v.extractLsb' 8 8, v.extractLsb' 0 8]

/-- The two bytes of a value, most significant first. -/
def split16 (v : BitVec 16) : List Byte := [v.extractLsb' 8 8, v.extractLsb' 0 8]

/-- The command byte `0x40 | cmd` (R92). -/
def commandByte (cmd : CmdCode) : Byte := 0b01#2 ++ cmd

/-- The command code of a command byte: its low 6 bits (R92). -/
def commandCode (b : Byte) : CmdCode := b.extractLsb' 0 6

/-- Why an item is no instruction. -/
inductive DecodeError
  /-- The item has too few or too many bytes for its format. -/
  | wrongLength
  /-- A frame whose first byte has not the top bits `01` (R91: `start` must be `0b01`). -/
  | notACommandByte
  /-- A byte that is none of the four ATA command bytes (R104: the block issues no other). -/
  | notAnAtaCommand
  /-- A selector that names no operation (R112). -/
  | noSuchSelector
  /-- An operand byte outside its operand's range. -/
  | badOperand
  deriving DecidableEq, Repr

/-- The seventeen host-port operations, in the order of R112. -/
inductive PortOp
  | setStrobe
  | setDataBusDirection
  | writeDataBus
  | readDataBus
  | setRegisterAddress
  | readRegister
  | writeRegister
  | waitForStatus
  | initializeDrive
  | readSector
  | writeSector
  | readMultiple
  | writeMultiple
  | consumeByte
  | produceResponseByte
  | sendBlock
  | receiveBlock
  deriving DecidableEq, Repr

/-- The 5-bit selector of an operation (the table of R112). -/
def PortOp.selector : PortOp → BitVec 5
  | .setStrobe => 0b00000
  | .setDataBusDirection => 0b00001
  | .writeDataBus => 0b00010
  | .readDataBus => 0b00011
  | .setRegisterAddress => 0b00100
  | .readRegister => 0b01000
  | .writeRegister => 0b01001
  | .waitForStatus => 0b01010
  | .initializeDrive => 0b01011
  | .readSector => 0b01100
  | .writeSector => 0b01101
  | .readMultiple => 0b01110
  | .writeMultiple => 0b01111
  | .consumeByte => 0b10000
  | .produceResponseByte => 0b10001
  | .sendBlock => 0b10010
  | .receiveBlock => 0b10011

/-- All seventeen operations. -/
def PortOp.all : List PortOp :=
  [.setStrobe, .setDataBusDirection, .writeDataBus, .readDataBus, .setRegisterAddress,
    .readRegister, .writeRegister, .waitForStatus, .initializeDrive, .readSector, .writeSector,
    .readMultiple, .writeMultiple, .consumeByte, .produceResponseByte, .sendBlock, .receiveBlock]

/-- The selector byte of an operation: the selector in bits 4:0, zeros above. -/
def PortOp.selectorByte (p : PortOp) : Byte := p.selector.setWidth 8

/-- The operation a selector byte names, if any (R112: all other values name no operation). -/
def PortOp.ofByte (b : Byte) : Option PortOp := PortOp.all.find? (fun p => p.selectorByte == b)

/-- How many operand bytes follow the selector byte when every operand is given (log entry 2; the two bytes of
`size` and of `length` are log entry 38). -/
def PortOp.operandBytes : PortOp → Nat
  | .setStrobe => 2
  | .setDataBusDirection => 1
  | .writeDataBus => 1
  | .readDataBus => 0
  | .setRegisterAddress => 1
  | .readRegister => 1
  | .writeRegister => 2
  | .waitForStatus => 1
  | .initializeDrive => 1
  | .readSector => 12
  | .writeSector => 10
  | .readMultiple => 10
  | .writeMultiple => 10
  | .consumeByte => 1
  | .produceResponseByte => 1
  | .sendBlock => 8
  | .receiveBlock => 8

/-- How many operand bytes an operation must have: an operand with a default may be left out (R154, R170). -/
def PortOp.requiredBytes (p : PortOp) : Nat :=
  if p = .waitForStatus ∨ p = .initializeDrive then 0 else p.operandBytes

/-- Operand byte of a strobe line: 0 `RD`, 1 `WR`. -/
def lineOfByte (b : Byte) : Option StrobeLine :=
  if b = 0 then some .rd else if b = 1 then some .wr else none

/-- Operand byte of a strobe state: 0 `Assert`, 1 `Negate`, 2 `HighZ`. -/
def stateOfByte (b : Byte) : Option StrobeState :=
  if b = 0 then some .assert else if b = 1 then some .negate else if b = 2 then some .highZ else none

/-- Operand byte of a direction: 0 `Input`, 1 `Output`. -/
def directionOfByte (b : Byte) : Option Direction :=
  if b = 0 then some .input else if b = 1 then some .output else none

/-- Operand byte of a one-bit operand. -/
def boolOfByte (b : Byte) : Option Bool :=
  if b = 0 then some false else if b = 1 then some true else none

/-- Operand byte of a register address: the address in bits 2:0, zeros above (R135). -/
def addrOfByte (b : Byte) : Option RegAddr :=
  if b.extractLsb' 3 5 = 0#5 then some (b.extractLsb' 0 3) else none

/-- Operand byte of a command code: the code in bits 5:0, zeros above (R241). -/
def codeOfByte (b : Byte) : Option CmdCode :=
  if b.extractLsb' 6 2 = 0#2 then some (b.extractLsb' 0 6) else none

/-- A buffer descriptor from its six bytes: the base, most significant byte first, then the capacity
counted from 512, so that zero bytes describe a buffer of one sector (log entry 17). -/
def bufferOfBytes (a3 a2 a1 a0 c1 c0 : Byte) : Buffer where
  base := join32 a3 a2 a1 a0
  cap := join16 c1 c0 + 512#16

/-- An operand that may be out of range, and the instruction it makes. -/
def withOperand {α : Type} (o : Option α) (f : α → Instr) : Except DecodeError Instr :=
  match o with
  | some a => .ok (f a)
  | none => .error .badOperand

/-- The operands of a host-port operation. The two operands that have a default take it when left out: the mask of
`waitForStatus` is then `0x00` (R154), and `preferLba` of `initialize` is true (R170). -/
def decodeOperands (p : PortOp) (ops : List Byte) : Except DecodeError Instr :=
  match p with
  | .setStrobe =>
    match ops with
    | [l, st] =>
      match lineOfByte l with
      | some line => withOperand (stateOfByte st) (.setStrobe line)
      | none => .error .badOperand
    | _ => .error .wrongLength
  | .setDataBusDirection =>
    match ops with
    | [d] => withOperand (directionOfByte d) .setDataBusDirection
    | _ => .error .wrongLength
  | .writeDataBus =>
    match ops with
    | [v] => .ok (.writeDataBus v)
    | _ => .error .wrongLength
  | .readDataBus =>
    match ops with
    | [] => .ok .readDataBus
    | _ => .error .wrongLength
  | .setRegisterAddress =>
    match ops with
    | [a] => withOperand (addrOfByte a) .setRegisterAddress
    | _ => .error .wrongLength
  | .readRegister =>
    match ops with
    | [a] => withOperand (addrOfByte a) .readRegister
    | _ => .error .wrongLength
  | .writeRegister =>
    match ops with
    | [a, v] => withOperand (addrOfByte a) (fun r => .writeRegister r v)
    | _ => .error .wrongLength
  | .waitForStatus =>
    match ops with
    | [] => .ok (.waitForStatus 0x00)
    | [m] => .ok (.waitForStatus m)
    | _ => .error .wrongLength
  | .initializeDrive =>
    match ops with
    | [] => .ok (.initializeDrive true)
    | [b] => withOperand (boolOfByte b) .initializeDrive
    | _ => .error .wrongLength
  | .readSector =>
    match ops with
    | [s3, s2, s1, s0, n1, n0, a3, a2, a1, a0, c1, c0] =>
      .ok (.readSector (join32 s3 s2 s1 s0) (join16 n1 n0) (bufferOfBytes a3 a2 a1 a0 c1 c0))
    | _ => .error .wrongLength
  | .writeSector =>
    match ops with
    | [s3, s2, s1, s0, a3, a2, a1, a0, c1, c0] =>
      .ok (.writeSector (join32 s3 s2 s1 s0) (bufferOfBytes a3 a2 a1 a0 c1 c0))
    | _ => .error .wrongLength
  | .readMultiple =>
    match ops with
    | [s3, s2, s1, s0, a3, a2, a1, a0, c1, c0] =>
      .ok (.readMultiple (join32 s3 s2 s1 s0) (bufferOfBytes a3 a2 a1 a0 c1 c0))
    | _ => .error .wrongLength
  | .writeMultiple =>
    match ops with
    | [s3, s2, s1, s0, a3, a2, a1, a0, c1, c0] =>
      .ok (.writeMultiple (join32 s3 s2 s1 s0) (bufferOfBytes a3 a2 a1 a0 c1 c0))
    | _ => .error .wrongLength
  | .consumeByte =>
    match ops with
    | [b] => .ok (.consumeByte b)
    | _ => .error .wrongLength
  | .produceResponseByte =>
    match ops with
    | [b] => withOperand (codeOfByte b) .produceResponseByte
    | _ => .error .wrongLength
  | .sendBlock =>
    match ops with
    | [a3, a2, a1, a0, c1, c0, n1, n0] =>
      .ok (.sendBlock (bufferOfBytes a3 a2 a1 a0 c1 c0) (join16 n1 n0))
    | _ => .error .wrongLength
  | .receiveBlock =>
    match ops with
    | [a3, a2, a1, a0, c1, c0, n1, n0] =>
      .ok (.receiveBlock (bufferOfBytes a3 a2 a1 a0 c1 c0) (join16 n1 n0))
    | _ => .error .wrongLength

/-- A host-port operation: its selector byte, then its operands (R112). -/
def decodePort (bytes : List Byte) : Except DecodeError Instr :=
  match bytes with
  | [] => .error .wrongLength
  | sel :: ops =>
    match PortOp.ofByte sel with
    | none => .error .noSuchSelector
    | some p => decodeOperands p ops

/-- The FRAME row of a command code: the eight recognized ones, then the default row (R98, R99). -/
def frameInstr (c : Config) (cmd : CmdCode) (arg : CmdArg) (crc reads : Byte) : Instr :=
  if cmd = c.sdGoIdle then .goIdleState arg crc reads
  else if cmd = c.sdSendIfCond then .sendIfCond arg crc reads
  else if cmd = c.sdStopTransmission then .stopTransmission arg crc reads
  else if cmd = c.sdReadMultiple then .readMultipleBlock arg crc reads
  else if cmd = c.sdWriteMultiple then .writeMultipleBlock arg crc reads
  else if cmd = c.sdSendOpCond then .sdSendOpCond arg crc reads
  else if cmd = c.sdAppCmd then .appCmd arg crc reads
  else if cmd = c.sdReadOcr then .readOcr arg crc reads
  else .unrecognizedCommand cmd arg crc reads

/-- A frame: command byte, four argument bytes most significant first, checksum byte (R91), and the
count of response bytes the host then asks for (log entry 3). -/
def decodeFrame (c : Config) (bytes : List Byte) : Except DecodeError Instr :=
  match bytes with
  | [b0, b1, b2, b3, b4, crc, reads] =>
    if IsCommandByte b0 then .ok (frameInstr c (commandCode b0) (join32 b1 b2 b3 b4) crc reads)
    else .error .notACommandByte
  | _ => .error .wrongLength

/-- The row of one stream byte at stream position `pos`, in the order of R95. A lone command byte has no row
of its own: it is the `consumeByte` call that delivers it (log entry 5). -/
def streamInstr (pos : Nat) (b : Byte) : Instr :=
  if pos = 0 then
    if IsToken b then
      if b = 0xFC#8 then .tokenStartBlock
      else if b = 0xFD#8 then .tokenStopTran
      else if b = 0xFF#8 then .tokenIdleFF
      else .tokenIgnored b
    else if IsCommandByte b then .consumeByte b
    else .strayByte b
  else if pos ≤ 4 then .argByte b
  else .crcByte b

/-- One byte of the stream. -/
def decodeStream (pos : Nat) (bytes : List Byte) : Except DecodeError Instr :=
  match bytes with
  | [b] => .ok (streamInstr pos b)
  | _ => .error .wrongLength

/-- An ATA command byte (R104). -/
def decodeAta (c : Config) (bytes : List Byte) : Except DecodeError Instr :=
  match bytes with
  | [b] =>
    if b = c.ataRead then .ok .ataReadSectors
    else if b = c.ataWrite then .ok .ataWriteSectors
    else if b = c.ataInitParams then .ok .ataInitDeviceParams
    else if b = c.ataSetFeatures then .ok .ataSetFeatures
    else .error .notAnAtaCommand
  | _ => .error .wrongLength

/-- The instruction an item stands for, under a configuration, at a stream position (R90, R95, R114). -/
def decode (c : Config) (pos : Nat) (it : HostItem) : Except DecodeError Instr :=
  match it.fmt with
  | .frame => decodeFrame c it.bytes
  | .stream => decodeStream pos it.bytes
  | .atacmd => decodeAta c it.bytes
  | .port => decodePort it.bytes

/-- The item of a frame (R91). -/
def frameItem (cmd : CmdCode) (arg : CmdArg) (crc reads : Byte) : HostItem where
  fmt := .frame
  bytes := commandByte cmd :: (split32 arg ++ [crc, reads])

/-- The item of one stream byte. -/
def streamItem (b : Byte) : HostItem := ⟨.stream, [b]⟩

/-- The item of an ATA command byte. -/
def ataItem (b : Byte) : HostItem := ⟨.atacmd, [b]⟩

/-- The item of a host-port operation. -/
def portItem (p : PortOp) (ops : List Byte) : HostItem := ⟨.port, p.selectorByte :: ops⟩

/-- The operand byte of a strobe line. -/
def byteOfLine : StrobeLine → Byte
  | .rd => 0
  | .wr => 1

/-- The operand byte of a strobe state. -/
def byteOfState : StrobeState → Byte
  | .assert => 0
  | .negate => 1
  | .highZ => 2

/-- The operand byte of a direction. -/
def byteOfDirection : Direction → Byte
  | .input => 0
  | .output => 1

/-- The operand byte of a one-bit operand. -/
def byteOfBool : Bool → Byte
  | false => 0
  | true => 1

/-- The six bytes of a buffer descriptor. -/
def bufferBytes (b : Buffer) : List Byte := split32 b.base ++ split16 (b.cap - 512#16)

/-- The item of an instruction, from the same encodings. -/
def encode (c : Config) : Instr → HostItem
  | .goIdleState arg crc n => frameItem c.sdGoIdle arg crc n
  | .sendIfCond arg crc n => frameItem c.sdSendIfCond arg crc n
  | .stopTransmission arg crc n => frameItem c.sdStopTransmission arg crc n
  | .readMultipleBlock arg crc n => frameItem c.sdReadMultiple arg crc n
  | .writeMultipleBlock arg crc n => frameItem c.sdWriteMultiple arg crc n
  | .sdSendOpCond arg crc n => frameItem c.sdSendOpCond arg crc n
  | .appCmd arg crc n => frameItem c.sdAppCmd arg crc n
  | .readOcr arg crc n => frameItem c.sdReadOcr arg crc n
  | .unrecognizedCommand cmd arg crc n => frameItem cmd arg crc n
  | .tokenStartBlock => streamItem 0xFC
  | .tokenStopTran => streamItem 0xFD
  | .tokenIdleFF => streamItem 0xFF
  | .tokenIgnored b => streamItem b
  | .argByte b => streamItem b
  | .crcByte b => streamItem b
  | .strayByte b => streamItem b
  | .ataReadSectors => ataItem c.ataRead
  | .ataWriteSectors => ataItem c.ataWrite
  | .ataInitDeviceParams => ataItem c.ataInitParams
  | .ataSetFeatures => ataItem c.ataSetFeatures
  | .setStrobe l st => portItem .setStrobe [byteOfLine l, byteOfState st]
  | .setDataBusDirection d => portItem .setDataBusDirection [byteOfDirection d]
  | .writeDataBus v => portItem .writeDataBus [v]
  | .readDataBus => portItem .readDataBus []
  | .setRegisterAddress a => portItem .setRegisterAddress [a.setWidth 8]
  | .readRegister a => portItem .readRegister [a.setWidth 8]
  | .writeRegister a v => portItem .writeRegister [a.setWidth 8, v]
  | .waitForStatus m => portItem .waitForStatus [m]
  | .initializeDrive p => portItem .initializeDrive [byteOfBool p]
  | .readSector sec n buf => portItem .readSector (split32 sec ++ split16 n ++ bufferBytes buf)
  | .writeSector sec buf => portItem .writeSector (split32 sec ++ bufferBytes buf)
  | .readMultiple sec buf => portItem .readMultiple (split32 sec ++ bufferBytes buf)
  | .writeMultiple sec buf => portItem .writeMultiple (split32 sec ++ bufferBytes buf)
  | .consumeByte b => portItem .consumeByte [b]
  | .produceResponseByte cmd => portItem .produceResponseByte [cmd.setWidth 8]
  | .sendBlock buf n => portItem .sendBlock (bufferBytes buf ++ split16 n)
  | .receiveBlock buf n => portItem .receiveBlock (bufferBytes buf ++ split16 n)

/-- A stream position at which the row of an instruction applies: 0 for tokens and stray bytes, 1 for an
argument byte, 5 for the checksum; the given position where the row has no condition. -/
def positionFor (pos : Nat) : Instr → Nat
  | .tokenStartBlock | .tokenStopTran | .tokenIdleFF | .tokenIgnored _ | .strayByte _ => 0
  | .argByte _ => 1
  | .crcByte _ => 5
  | .goIdleState _ _ _ | .sendIfCond _ _ _ | .stopTransmission _ _ _ | .readMultipleBlock _ _ _
  | .writeMultipleBlock _ _ _ | .sdSendOpCond _ _ _ | .appCmd _ _ _ | .readOcr _ _ _
  | .unrecognizedCommand _ _ _ _
  | .ataReadSectors | .ataWriteSectors | .ataInitDeviceParams | .ataSetFeatures
  | .setStrobe _ _ | .setDataBusDirection _ | .writeDataBus _ | .readDataBus
  | .setRegisterAddress _ | .readRegister _ | .writeRegister _ _ | .waitForStatus _
  | .initializeDrive _ | .readSector _ _ _ | .writeSector _ _ | .readMultiple _ _
  | .writeMultiple _ _ | .consumeByte _ | .produceResponseByte _ | .sendBlock _ _
  | .receiveBlock _ _ => pos

/-- The item an opcode-table word stands for. A 48-bit word is a frame with its first byte in bits 47:40
(R91) and no response bytes asked for (log entry 3). An 8-bit word has no format of its own in the table, and the same
byte is a row of several formats: the formats are tried in the order TOKEN, ATACMD, PORT (operand bytes
of zeros, operands with a default left out), BYTE (log entry 33). -/
def tableItem (nbits w : Nat) : HostItem :=
  if nbits = 48 then
    ⟨.frame, [BitVec.ofNat 8 (w >>> 40), BitVec.ofNat 8 (w >>> 32), BitVec.ofNat 8 (w >>> 24),
      BitVec.ofNat 8 (w >>> 16), BitVec.ofNat 8 (w >>> 8), BitVec.ofNat 8 w, 0]⟩
  else
    let b := BitVec.ofNat 8 w
    if IsToken b then streamItem b
    else if b ∈ Config.default.ataCodes then ataItem b
    else
      match PortOp.ofByte b with
      | some p => portItem p (List.replicate p.requiredBytes 0)
      | none => streamItem b

/-- The instruction the decoder reads from an opcode-table word, under the default codes, between frames. -/
def decodeTableWord (nbits w : Nat) : Option Instr :=
  match decode Config.default 0 (tableItem nbits w) with
  | .ok i => some i
  | .error _ => none

end Sys2Proof
end

