-- ==== Sys2Proof/Machine/State.lean ====
section
/-! DEFINITION. The state of the block (R20), with what stands at its ports: pending host requests, pending
drive answers, and the outputs (bus-event trace, log, results). Plain data. The reasons a step can stop.
The state after reset (R45). -/

namespace Sys2Proof.Machine

open Sys2Proof

/-- A Multi-Sector Cursor `(anchor, current)` (R33). -/
structure Cursor where
  anchor : Sector
  current : Sector
  deriving DecidableEq, Repr

/-- Severity of a log event (R106). -/
inductive Severity
  | warning
  | error
  deriving DecidableEq, Repr

/-- What a log event reports: the five error kinds (R280, R281) and `UnknownCommand` (R251). -/
inductive LogKind
  | driveAbsent
  | initTimeout
  | lbaUnsupported
  | transferModeUnsupported
  | statusTimeout
  | unknownCommand (cmd : CmdCode) (arg : CmdArg)
  deriving DecidableEq, Repr

/-- One event of the diagnostic sink (R283). -/
structure LogEvent where
  severity : Severity
  kind : LogKind
  deriving DecidableEq, Repr

/-- A value an operation returns to the host (R12, R106). -/
inductive Ret
  /-- A byte (`readDataBus`, `readRegister`, `produceResponseByte`). -/
  | byte (value : Byte)
  /-- `Ok` or `Timeout` (`waitForStatus`). -/
  | wait (result : WaitResult)
  /-- A mode (`initialize`). -/
  | mode (value : Mode)
  /-- A byte count, or 1 for success and 0 for failure (sector and block operations). -/
  | number (value : Nat)
  deriving DecidableEq, Repr

/-- Host memory, in which the host's sector buffers lie (R60 item 3): address and byte, in the canonical form
`Memory.Wf` of Machine/Ops.lean. -/
abbrev Memory := List Host.Cell

/-- The state. The first three groups are R20's tuple; `doutWritten` and `addrWritten` say whether `DOUT`
and `ADDR` have been written since reset (R24, R25, R45; log entry 14). `cfg` is the configuration, which no
operation writes (R20, R32). The rest stands at the block's ports: `hostMem`, `hostIn` and `driveIn` are
inputs; `events`, `log` and `results` are outputs, newest first. -/
@[ext]
structure State where
  -- Bus Signal Layer
  rdState : StrobeState
  wrState : StrobeState
  dir : Direction
  dout : Byte
  doutWritten : Bool
  addr : RegAddr
  addrWritten : Bool
  -- PATA Register Protocol
  mode : Mode
  busResolved : Bool
  rcur : Cursor
  wcur : Cursor
  -- SD Command Emulation Layer
  argPos : Nat
  cmd : CmdCode
  arg : CmdArg
  readInProgress : Bool
  writeInProgress : Bool
  sectorsWritten : Nat
  count : PerEntry Nat
  -- configuration
  cfg : Config
  -- host side
  hostMem : Memory
  hostIn : List HostItem
  results : List Ret
  -- drive side
  driveIn : List Byte
  events : List BusEvent
  -- diagnostic sink
  log : List LogEvent
  deriving DecidableEq, Repr

/-- Reasons the machine stops with a fault. There is none: no operation of the block traps (R10, R284), and no
error is thrown as a stop-the-world fault (R282). -/
inductive Fault
  deriving DecidableEq, Repr

/-- Reasons a step has no meaning. -/
inductive Refusal
  /-- Raised by no arm: kept for an instruction without a meaning. Safe. -/
  | notModelled (mnemonic : String)
  /-- `step`: the item at the host port is no instruction (R112: all other selectors name no operation). Safe. -/
  | undecodable (why : DecodeError)
  /-- `writeDataBus` while `DIR = Input`: outside the contract (R133, U1). Safe. -/
  | writeBusWhileInput
  /-- `readDataBus` while `DIR = Output`: outside the contract (R134, U2). Safe. -/
  | readBusWhileOutput
  /-- `readSector` with `size > 512`: outside the contract (R192, U3). Safe. -/
  | sizeOverSector
  /-- A sector or block operation whose buffer is shorter than the bytes moved: outside the contract
  (R195, U4). Safe. -/
  | bufferTooShort
  /-- `produceResponseByte` with a command other than `CMD` (R242, U15). Safe. -/
  | commandNotCurrent
  deriving DecidableEq, Repr

/-- The state after reset (R45, R310). `DOUT` and `ADDR` have no value until first written; the zeros here
are a DESIGN CHOICE, unsafe (log entry 14), and the two written flags are false. Nothing is pending at the
ports and nothing has been put out (log entries 1, 6, 34). -/
def State.reset : State where
  rdState := .highZ
  wrState := .highZ
  dir := .input
  dout := 0
  doutWritten := false
  addr := 0
  addrWritten := false
  mode := .notInitialized
  busResolved := false
  rcur := ⟨0, 0⟩
  wcur := ⟨0, 0⟩
  argPos := 0
  cmd := 0
  arg := 0
  readInProgress := false
  writeInProgress := false
  sectorsWritten := 0
  count := PerEntry.of (fun _ => 0)
  cfg := Config.default
  hostMem := []
  hostIn := []
  results := []
  driveIn := []
  events := []
  log := []

end Sys2Proof.Machine
end

