-- ==== Sys2Proof/Machine/Ops.lean ====
section
/-! DEFINITION. The named operations over the state that the meanings share: host memory, the outputs, the
five bus primitives, the drive's answer to a sample, register reads and writes, the reporting of an error,
and the view of the pins. -/

namespace Sys2Proof.Machine

open Sys2Proof

/-- What an unlisted address of host memory reads as: zero. DESIGN CHOICE, unsafe (log entry 16). -/
def Memory.unlisted (_ : Nat) : Byte := 0

/-- The byte at an address. -/
def Memory.read : Memory → Nat → Byte
  | [], a => Memory.unlisted a
  | (b, v) :: m, a => if b = a then v else Memory.read m a

/-- A cell before a memory, unless it holds what its address reads as unlisted. -/
def Memory.cons (a : Nat) (v : Byte) (m : Memory) : Memory :=
  if v = Memory.unlisted a then m else (a, v) :: m

/-- Write one byte, keeping the canonical form. -/
def Memory.write : Memory → Nat → Byte → Memory
  | [], a, v => Memory.cons a v []
  | (b, w) :: m, a, v =>
    if a < b then Memory.cons a v ((b, w) :: m)
    else if a = b then Memory.cons a v m
    else (b, w) :: Memory.write m a v

/-- The canonical form: addresses strictly rising, and no entry equal to what its address reads as
unlisted. -/
abbrev Memory.Wf (m : Memory) : Prop :=
  m.Pairwise (fun x y => x.1 < y.1) ∧ ∀ c ∈ m, c.2 ≠ Memory.unlisted c.1

/-- Write one byte of host memory. -/
def storeByte (a : Nat) (v : Byte) (s : State) : State :=
  { s with hostMem := s.hostMem.write a v }

/-- Put out one bus event (R11, R130). -/
def pushEvent (e : BusEvent) (s : State) : State := { s with events := e :: s.events }

/-- The trace so far, in the order performed (R11). -/
def State.trace (s : State) : List BusEvent := s.events.reverse

/-- `Log(sev, kind)`: one event to the diagnostic sink; it changes no state of the block (R10, R283). -/
def logEvent (sev : Severity) (k : LogKind) (s : State) : State :=
  { s with log := ⟨sev, k⟩ :: s.log }

/-- `return v`: the operation ends with result `v` (R10). -/
def returns (r : Ret) (s : State) : State := { s with results := r :: s.results }

/-- An error is detected. There is no trap entry (R284): the operation logs the error and goes on to return its
sentinel; nothing is saved, no mode changes, control stays with the caller. -/
def reportError (sev : Severity) (k : LogKind) (s : State) : State := logEvent sev k s

/-- `setStrobe(line, state)` (R131). -/
def driveStrobe (line : StrobeLine) (st : StrobeState) (s : State) : State :=
  pushEvent (.strobe line st)
    (match line with
    | .rd => { s with rdState := st }
    | .wr => { s with wrState := st })

/-- `setDataBusDirection(direction)` (R132). -/
def turnBus (d : Direction) (s : State) : State := pushEvent (.direction d) { s with dir := d }

/-- `writeDataBus(byte)`, with `DIR = Output` (R133). -/
def loadData (v : Byte) (s : State) : State :=
  pushEvent (.load v) { s with dout := v, doutWritten := true }

/-- `setRegisterAddress(value)` (R135). -/
def loadAddress (a : RegAddr) (s : State) : State :=
  pushEvent (.address a) { s with addr := a, addrWritten := true }

/-- The byte the drive answers to the next sample (R76): the next pending answer, or a free value of the whole
history of bus events when none is pending (log entry 6). -/
def driveAnswer (s : State) : Byte :=
  match s.driveIn with
  | b :: _ => b
  | [] => Config.freeDriveAnswer s.events

/-- `readDataBus()`, with `DIR = Input` (R134): the state after, and the byte sampled. -/
def sampleBus (s : State) : State × Byte :=
  (pushEvent (.sample (driveAnswer s)) { s with driveIn := s.driveIn.tail }, driveAnswer s)

/-- `readRegister(address)`: six primitives (R150). `DriveRead(a)` of R10. -/
def readReg (a : RegAddr) (s : State) : State × Byte :=
  let sampled := sampleBus (driveStrobe .rd .assert (loadAddress a (turnBus .input
    (driveStrobe .rd .negate s))))
  (driveStrobe .rd .negate sampled.1, sampled.2)

/-- `writeRegister(address, value)`: six primitives (R152). `DriveWrite(a, v)` of R10. -/
def writeReg (a : RegAddr) (v : Byte) (s : State) : State :=
  driveStrobe .wr .negate (driveStrobe .wr .assert (loadAddress a (loadData v (turnBus .output
    (driveStrobe .wr .negate s)))))

/-- Take the next item off the host port. -/
def fetchItem (s : State) : Option (HostItem × State) :=
  match s.hostIn with
  | [] => none
  | it :: rest => some (it, { s with hostIn := rest })

/-- Put the item of an instruction at the front of the host port, at a stream position at which its row
applies. -/
def placeInstr (i : Instr) (s : State) : State :=
  { s with hostIn := encode s.cfg i :: s.hostIn, argPos := positionFor s.argPos i }

/-- Put an item at the front of the host port. -/
def placeItem (it : HostItem) (s : State) : State := { s with hostIn := it :: s.hostIn }

/-- What the block puts on a pin: nothing (the driver is released, and the block does not determine the
level), a value, or an undefined value (a latch driven before its first write, R132). -/
inductive Pin (α : Type)
  | released
  | driven (value : α)
  | undefined
  deriving DecidableEq, Repr

/-- A strobe pin as a function of the state of its line driver (R26). -/
def strobePin (c : Config) : StrobeState → Pin Level
  | .assert => .driven c.strobeActiveLevel
  | .negate => .driven c.strobeActiveLevel.opposite
  | .highZ => .released

/-- The pin `RD` (R26). -/
def State.rdPin (s : State) : Pin Level := strobePin s.cfg s.rdState

/-- The pin `WR` (R26). -/
def State.wrPin (s : State) : Pin Level := strobePin s.cfg s.wrState

/-- The pins `D[7:0]` (R26, R132). -/
def State.dataPins (s : State) : Pin Byte :=
  match s.dir with
  | .input => .released
  | .output => if s.doutWritten then .driven s.dout else .undefined

/-- The pins `A[2:0]` (R26, R25). -/
def State.addrPins (s : State) : Pin RegAddr :=
  if s.addrWritten then .driven s.addr else .undefined

end Sys2Proof.Machine
end

