-- ==== Sys2Proof/Machine/Operands.lean ====
section
/-! DEFINITION. The operand forms: the bytes of a sector address, the drive/head byte of a read and of a
write, host buffers, and the accumulation of an SD argument. -/

namespace Sys2Proof.Machine

open Sys2Proof

/-- `sector[7:0]`, the byte of `REG_LBA0` (R66, R105). -/
def lba0Byte (sec : Sector) : Byte := sec.extractLsb' 0 8

/-- `sector[15:8]`, the byte of `REG_LBA1` (R66, R105). -/
def lba1Byte (sec : Sector) : Byte := sec.extractLsb' 8 8

/-- `sector[23:16]`, the byte of `REG_LBA2` (R66, R105). -/
def lba2Byte (sec : Sector) : Byte := sec.extractLsb' 16 8

/-- `zext_8(sector[27:24])` (R66, R105); bits 31:28 are dropped (R63). -/
def headNibble (sec : Sector) : Byte := (sec.extractLsb' 24 4).setWidth 8

/-- The nibble `1110` in bits 7:4, which selects LBA and drive 0 (R102). -/
def lbaDrive0 : Byte := 0xE0

/-- The drive/head byte of a read: the nibble `1110` forced (R190). -/
def headByteForced (sec : Sector) : Byte := lbaDrive0 ||| headNibble sec

/-- The drive/head byte of a write: the upper nibble just read from the drive kept (R193). -/
def headByteKept (h : Byte) (sec : Sector) : Byte := (h &&& 0xF0) ||| headNibble sec

/-- The address of byte `i` of a buffer. -/
def bufAddr (buf : Buffer) (i : Nat) : Nat := buf.base.toNat + i

/-- The buffer holds at least `n` bytes (U4). -/
abbrev BufHolds (buf : Buffer) (n : Nat) : Prop := n ≤ buf.cap.toNat

/-- `(ARG << 8)[31:0] | zext_32(b)` (R93). -/
def shiftIn (arg : CmdArg) (b : Byte) : CmdArg := (arg <<< 8) ||| b.setWidth 32

end Sys2Proof.Machine
end

