-- ==== Sys2Proof/Machine/Flags.lean ====
section
/-! DEFINITION. The flag computations: the tests the block makes on the drive's status, error and drive/head
registers (R100 to R102), and the block's own transfer-session flags (R38 to R40). -/

namespace Sys2Proof.Machine

open Sys2Proof

/-- Busy clear: `(s & ST_BSY) = 0` (R100). -/
abbrev BusyClear (c : Config) (st : Byte) : Prop := st &&& c.stBsy = 0

/-- All bits of the mask set: `(s & mask) = mask` (R154). -/
abbrev MaskSet (mask st : Byte) : Prop := st &&& mask = mask

/-- The condition `waitForStatus` waits for (R154). -/
abbrev StatusMet (c : Config) (mask st : Byte) : Prop := BusyClear c st ∧ MaskSet mask st

/-- The condition the ready-wait of `initialize` waits for (R174). -/
abbrev DriveReady (c : Config) (st : Byte) : Prop := BusyClear c st ∧ st &&& c.stDrdy ≠ 0

/-- The drive/head register read back reports LBA capability (R177). -/
abbrev LbaReported (c : Config) (d : Byte) : Prop := d &&& c.dhLba ≠ 0

/-- The error register reports "aborted command" (R179). -/
abbrev Aborted (c : Config) (e : Byte) : Prop := e &&& c.erAbrt ≠ 0

/-- The start-of-block token (R221). -/
def startBlock (s : State) : State :=
  { s with sectorsWritten := s.sectorsWritten + 1, writeInProgress := true }

/-- The end-of-transfer token (R222). -/
def stopTran (s : State) : State := { s with writeInProgress := false }

/-- The idle token after a stop-transmission command (R223). -/
def endReadSession (s : State) : State := { s with readInProgress := false }

/-- The flag write of `receiveBlock` (R257). -/
def beginReadSession (s : State) : State := { s with readInProgress := true }

/-- The last byte of a closing write response resets the count (R247). -/
def clearSectorsWritten (s : State) : State := { s with sectorsWritten := 0 }

end Sys2Proof.Machine
end

