-- ==== Sys2Proof/Machine/BusSignal.lean ====
section
/-! DEFINITION. The five operations of the Bus Signal Layer (spec/40_bus_signal.md). -/

namespace Sys2Proof.Machine

open Sys2Proof

/-- `setStrobe` (R131). It never stops: the layer has no fallible operation (R130), and vector VB2 asserts a
strobe before any address is written (log entry 20). -/
def execSetStrobe (line : StrobeLine) (st : StrobeState) (s : State) :
    Host.Outcome State Fault Refusal :=
  .next (driveStrobe line st s)

/-- `setDataBusDirection` (R132). -/
def execSetDataBusDirection (d : Direction) (s : State) : Host.Outcome State Fault Refusal :=
  .next (turnBus d s)

/-- `writeDataBus` (R133): only valid in Output direction (U1). -/
def execWriteDataBus (v : Byte) (s : State) : Host.Outcome State Fault Refusal :=
  match s.dir with
  | .output => .next (loadData v s)
  | .input => .refused .writeBusWhileInput

/-- `readDataBus` (R134): only valid in Input direction (U2). -/
def execReadDataBus (s : State) : Host.Outcome State Fault Refusal :=
  match s.dir with
  | .input => .next (returns (.byte (sampleBus s).2) (sampleBus s).1)
  | .output => .refused .readBusWhileOutput

/-- `setRegisterAddress` (R135). -/
def execSetRegisterAddress (a : RegAddr) (s : State) : Host.Outcome State Fault Refusal :=
  .next (loadAddress a s)

end Sys2Proof.Machine
end

