-- ==== Sys2Proof/Machine/PataRegister.lean ====
section
/-! DEFINITION. Register read, register write and status wait (spec/41_pata_register.md). -/

namespace Sys2Proof.Machine

open Sys2Proof

/-- The loop of `waitForStatus` with `n` reads left (R154): read first, stop at the first status that
meets the condition. -/
def pollStatus (mask : Byte) : Nat → State → State × WaitResult
  | 0, s => (s, .timeout)
  | n + 1, s =>
    let r := readReg s.cfg.regStatusCmd s
    if StatusMet s.cfg mask r.2 then (r.1, .ok) else pollStatus mask n r.1

/-- `waitForStatus` (R154): at most `STATUS_TIMEOUT_POLLS` reads; a timeout is logged as a warning. -/
def waitStatus (mask : Byte) (s : State) : State × WaitResult :=
  let r := pollStatus mask s.cfg.statusTimeoutPolls s
  match r.2 with
  | .ok => (r.1, .ok)
  | .timeout => (reportError .warning .statusTimeout r.1, .timeout)

/-- `readRegister` (R150). -/
def execReadRegister (a : RegAddr) (s : State) : Host.Outcome State Fault Refusal :=
  .next (returns (.byte (readReg a s).2) (readReg a s).1)

/-- `writeRegister` (R152). -/
def execWriteRegister (a : RegAddr) (v : Byte) (s : State) : Host.Outcome State Fault Refusal :=
  .next (writeReg a v s)

/-- `waitForStatus` (R154). -/
def execWaitForStatus (mask : Byte) (s : State) : Host.Outcome State Fault Refusal :=
  .next (returns (.wait (waitStatus mask s).2) (waitStatus mask s).1)

end Sys2Proof.Machine
end

