-- ==== Sys2Proof/Machine/AtaCommand.lean ====
section
/-! DEFINITION. The four ATA command bytes (format ATACMD, R104): the block issues one by writing it to
`REG_STATUS_CMD`. What the drive then does is the drive's (R44, R76; log entry 4). -/

namespace Sys2Proof.Machine

open Sys2Proof

/-- Issue a command byte: one register write of `REG_STATUS_CMD` (R70, R104). -/
def issueCommand (command : Byte) (s : State) : State := writeReg s.cfg.regStatusCmd command s

/-- The read command (R104, issued by R192). -/
def execAtaReadSectors (s : State) : Host.Outcome State Fault Refusal :=
  .next (issueCommand s.cfg.ataRead s)

/-- The write command (R104, issued by R195). -/
def execAtaWriteSectors (s : State) : Host.Outcome State Fault Refusal :=
  .next (issueCommand s.cfg.ataWrite s)

/-- Initialize device parameters (R104, issued by R176). -/
def execAtaInitDeviceParams (s : State) : Host.Outcome State Fault Refusal :=
  .next (issueCommand s.cfg.ataInitParams s)

/-- Set features (R104, issued by R179). -/
def execAtaSetFeatures (s : State) : Host.Outcome State Fault Refusal :=
  .next (issueCommand s.cfg.ataSetFeatures s)

end Sys2Proof.Machine
end

