-- ==== Sys2Proof/Machine/PataInit.lean ====
section
/-! DEFINITION. The initialization handshake (spec/42_pata_init.md), stage by stage; the listing of R181. -/

namespace Sys2Proof.Machine

open Sys2Proof

/-- Stage S1, bus set-up (R172): the handles are resolved and both strobes negated, read first. -/
def busSetup (s : State) : State :=
  driveStrobe .wr .negate (driveStrobe .rd .negate { s with busResolved := true })

/-- Stage S2, the ready-wait with `n` reads left (R174): true when a read found the drive ready. -/
def readyWait : Nat → State → State × Bool
  | 0, s => (s, false)
  | n + 1, s =>
    let r := readReg s.cfg.regStatusCmd s
    if DriveReady s.cfg r.2 then (r.1, true) else readyWait n r.1

/-- Stage S3, addressing (R176 to R178): the candidate mode. The result of the status wait is not acted on. -/
def selectAddressing (preferLba : Bool) (s : State) : State × Mode :=
  if preferLba then
    let s1 := issueCommand s.cfg.ataInitParams (writeReg s.cfg.regDriveHead lbaDrive0 s)
    let s2 := (waitStatus 0x00 s1).1
    let d := readReg s2.cfg.regDriveHead s2
    if LbaReported s2.cfg d.2 then (d.1, .lba)
    else (reportError .warning .lbaUnsupported d.1, .chs)
  else (s, .chs)

/-- Stage S4, 8-bit transfer mode (R179): the byte read from the error register. -/
def selectEightBit (s : State) : State × Byte :=
  let s1 := issueCommand s.cfg.ataSetFeatures (writeReg s.cfg.regErrFeat s.cfg.feat8Bit s)
  let s2 := (waitStatus 0x00 s1).1
  readReg s2.cfg.regErrFeat s2

/-- Stages S3 to S5, once the drive is ready (R176 to R180). -/
def configureDrive (preferLba : Bool) (s : State) : State × Mode :=
  let cand := selectAddressing preferLba s
  let e := selectEightBit cand.1
  if Aborted e.1.cfg e.2 then
    (reportError .error .transferModeUnsupported e.1, .notInitialized)
  else ({ e.1 with mode := cand.2 }, cand.2)

/-- Stages S1 and S2 and what follows them (R172 to R181). -/
def handshake (preferLba : Bool) (s : State) : State × Mode :=
  let s1 := busSetup s
  let probe := readReg s1.cfg.regStatusCmd s1
  if BusyClear probe.1.cfg probe.2 then (reportError .error .driveAbsent probe.1, .notInitialized)
  else
    let w := readyWait probe.1.cfg.initReadyPolls probe.1
    if w.2 then configureDrive preferLba w.1
    else (reportError .error .initTimeout w.1, .notInitialized)

/-- `initialize(preferLba)` (R170, R181): stage S0 returns the cached mode at once (R171). -/
def initDrive (preferLba : Bool) (s : State) : State × Mode :=
  match s.mode with
  | .notInitialized => handshake preferLba s
  | .lba => (s, .lba)
  | .chs => (s, .chs)

/-- The operation `initialize` (R170). -/
def execInitialize (preferLba : Bool) (s : State) : Host.Outcome State Fault Refusal :=
  .next (returns (.mode (initDrive preferLba s).2) (initDrive preferLba s).1)

end Sys2Proof.Machine
end

