-- ==== Sys2Proof/Machine/PataSector.lean ====
section
/-! DEFINITION. Sector transfer and the multi-sector cursors (spec/43_pata_sector.md). -/

namespace Sys2Proof.Machine

open Sys2Proof

/-- `LoadAddrRead(sector)` (R190): four register writes in ascending address order. -/
def loadAddrRead (sec : Sector) (s : State) : State :=
  writeReg s.cfg.regDriveHead (headByteForced sec)
    (writeReg s.cfg.regLba2 (lba2Byte sec)
      (writeReg s.cfg.regLba1 (lba1Byte sec)
        (writeReg s.cfg.regLba0 (lba0Byte sec) s)))

/-- `LoadAddrWrite(sector)` (R193): the drive/head register is read and its upper nibble written back. -/
def loadAddrWrite (sec : Sector) (s : State) : State :=
  let s1 := writeReg s.cfg.regLba2 (lba2Byte sec)
    (writeReg s.cfg.regLba1 (lba1Byte sec)
      (writeReg s.cfg.regLba0 (lba0Byte sec) s))
  let h := readReg s1.cfg.regDriveHead s1
  writeReg h.1.cfg.regDriveHead (headByteKept h.2 sec) h.1

/-- `buf[i] <- readRegister(REG_DATA)` for `n` bytes from address `a` upward (R192). -/
def readData : Nat → Nat → State → State
  | _, 0, s => s
  | a, n + 1, s =>
    let r := readReg s.cfg.regData s
    readData (a + 1) n (storeByte a r.2 r.1)

/-- `writeRegister(REG_DATA, buf[i])` for `n` bytes from address `a` upward (R195). -/
def writeData : Nat → Nat → State → State
  | _, 0, s => s
  | a, n + 1, s => writeData (a + 1) n (writeReg s.cfg.regData (s.hostMem.read a) s)

/-- `readSector(sector, size)` into a buffer long enough (R192): the state after and the bytes read. -/
def sectorIn (sec : Sector) (size : Nat) (buf : Buffer) (s : State) : State × Nat :=
  let s1 := issueCommand s.cfg.ataRead (loadAddrRead sec s)
  let w := waitStatus s1.cfg.stDrq s1
  match w.2 with
  | .timeout => (reportError .error .statusTimeout w.1, 0)
  | .ok => (readData (bufAddr buf 0) size w.1, size)

/-- `writeSector(sector, buffer)` from a buffer long enough (R195): the state after, and 1 or 0. -/
def sectorOut (sec : Sector) (buf : Buffer) (s : State) : State × Nat :=
  let s1 := issueCommand s.cfg.ataWrite (loadAddrWrite sec s)
  let w := waitStatus s1.cfg.stDrq s1
  match w.2 with
  | .timeout => (reportError .error .statusTimeout w.1, 0)
  | .ok => (writeData (bufAddr buf 0) sectorSize w.1, 1)

/-- The cursor a call starting at `sec` works with: reset if the anchor differs (R33, R197). -/
def Cursor.anchored (c : Cursor) (sec : Sector) : Cursor :=
  if sec = c.anchor then c else ⟨sec, sec⟩

/-- The cursor after a call: `current` one further, modulo 2^32 (R197, R199). -/
def Cursor.advanced (c : Cursor) : Cursor := { c with current := c.current + 1 }

/-- `readMultiple(sector, buffer)` (R197): the cursor advances whether or not the read succeeds. -/
def multipleIn (sec : Sector) (buf : Buffer) (s : State) : State × Nat :=
  let s1 := { s with rcur := s.rcur.anchored sec }
  let r := sectorIn s1.rcur.current sectorSize buf s1
  ({ r.1 with rcur := r.1.rcur.advanced }, r.2)

/-- `writeMultiple(sector, buffer)` (R198). -/
def multipleOut (sec : Sector) (buf : Buffer) (s : State) : State × Nat :=
  let s1 := { s with wcur := s.wcur.anchored sec }
  let r := sectorOut s1.wcur.current buf s1
  ({ r.1 with wcur := r.1.wcur.advanced }, r.2)

/-- Run a transfer that moves `n` bytes of a buffer, and return its result; a buffer shorter than that is
outside the contract (U4). -/
def withBuffer (buf : Buffer) (n : Nat) (op : State → State × Nat) (s : State) :
    Host.Outcome State Fault Refusal :=
  if BufHolds buf n then .next (returns (.number (op s).2) (op s).1) else .refused .bufferTooShort

/-- `readSector` (R192); `size > 512` is outside the contract (U3). -/
def execReadSector (sec : Sector) (size : BitVec 16) (buf : Buffer) (s : State) :
    Host.Outcome State Fault Refusal :=
  if sectorSize < size.toNat then .refused .sizeOverSector
  else withBuffer buf size.toNat (sectorIn sec size.toNat buf) s

/-- `writeSector` (R195). -/
def execWriteSector (sec : Sector) (buf : Buffer) (s : State) : Host.Outcome State Fault Refusal :=
  withBuffer buf sectorSize (sectorOut sec buf) s

/-- `readMultiple` (R197). -/
def execReadMultiple (sec : Sector) (buf : Buffer) (s : State) : Host.Outcome State Fault Refusal :=
  withBuffer buf sectorSize (multipleIn sec buf) s

/-- `writeMultiple` (R198). -/
def execWriteMultiple (sec : Sector) (buf : Buffer) (s : State) :
    Host.Outcome State Fault Refusal :=
  withBuffer buf sectorSize (multipleOut sec buf) s

end Sys2Proof.Machine
end

