-- ==== Sys2Proof/Machine/SdDecoder.lean ====
section
/-! DEFINITION. The SD command frame parser (spec/44_sd_decoder.md): `consumeByte` and the stream rows. -/

namespace Sys2Proof.Machine

open Sys2Proof

/-- A command byte opens a frame (R224). -/
def openFrame (b : Byte) (s : State) : State :=
  { s with arg := 0, cmd := commandCode b, argPos := 1 }

/-- A byte is shifted into the argument (R225, R227). -/
def takeArgByte (b : Byte) (s : State) : State :=
  { s with arg := shiftIn s.arg b, argPos := s.argPos + 1 }

/-- The checksum byte is discarded and closes the frame (R226, R94). -/
def closeFrame (s : State) : State := { s with argPos := 0 }

/-- A token, taken while no frame is open (R96, R221 to R223, R228). -/
def takeToken (b : Byte) (s : State) : State :=
  if b = 0xFC#8 then startBlock s
  else if b = 0xFD#8 then stopTran s
  else if b = 0xFF#8 ∧ s.cmd = s.cfg.sdStopTransmission then endReadSession s
  else s

/-- `consumeByte(b)`: the first condition that holds is the only one taken (R220). -/
def consume (b : Byte) (s : State) : State :=
  if s.argPos = 0 ∧ IsToken b then takeToken b s
  else if s.argPos = 0 ∧ IsCommandByte b then openFrame b s
  else if s.argPos ≤ 4 then takeArgByte b s
  else closeFrame s

/-- The bytes of a list, delivered one by one, the first one first. -/
def consumeAll : List Byte → State → State
  | [], s => s
  | b :: bs, s => consumeAll bs (consume b s)

/-- The six bytes of a frame: command byte, argument bytes most significant first, checksum (R91). -/
def frameBytes (cmd : CmdCode) (arg : CmdArg) (crc : Byte) : List Byte :=
  commandByte cmd :: (split32 arg ++ [crc])

/-- `consumeByte` (R220). -/
def execConsumeByte (b : Byte) (s : State) : Host.Outcome State Fault Refusal :=
  .next (consume b s)

/-- The stream byte `0xFC`; with no frame open, the start-of-block token (R221). Like every stream row it is the
delivery of its byte, which the decoder classifies by position (R95; log entry 5). -/
def execTokenStartBlock (s : State) : Host.Outcome State Fault Refusal := .next (consume 0xFC s)

/-- The stream byte `0xFD`; with no frame open, the end-of-transfer token (R222). -/
def execTokenStopTran (s : State) : Host.Outcome State Fault Refusal := .next (consume 0xFD s)

/-- The stream byte `0xFF`; with no frame open, the idle token (R223, R228). -/
def execTokenIdleFF (s : State) : Host.Outcome State Fault Refusal := .next (consume 0xFF s)

/-- A stream byte that, with no frame open, is an ignored token (R228). -/
def execTokenIgnored (b : Byte) (s : State) : Host.Outcome State Fault Refusal :=
  .next (consume b s)

/-- A stream byte that, at positions 1 to 4, is an argument byte (R225). -/
def execArgByte (b : Byte) (s : State) : Host.Outcome State Fault Refusal := .next (consume b s)

/-- A stream byte that, at position 5, is the checksum (R226). -/
def execCrcByte (b : Byte) (s : State) : Host.Outcome State Fault Refusal := .next (consume b s)

/-- A stream byte that, with no frame open, is neither token nor command byte (R227). -/
def execStrayByte (b : Byte) (s : State) : Host.Outcome State Fault Refusal := .next (consume b s)

end Sys2Proof.Machine
end

