-- ==== Sys2Proof/Machine/SdDispatch.lean ====
section
/-! DEFINITION. The SD command dispatcher, the canned responses and bulk transfer (spec/45_sd_dispatch.md), and
the FRAME rows. -/

namespace Sys2Proof.Machine

open Sys2Proof

/-- `RESP[e][k]`; past the last payload byte, which R240 reads only in states that no run reaches, a free
value (log entry 13). -/
def respByte (c : Config) (e : Entry) (k : Nat) : Byte :=
  ((c.resp.get e)[k]?).getD (Config.freeRespPastEnd e k)

/-- The result of an emission step. -/
structure Emission where
  state : State
  byte : Byte
  done : Bool

/-- `Emit(e)` (R240): the cursor is incremented, the byte at it is the output, and the cursor wraps to 0
after the last byte. -/
def emit (e : Entry) (s : State) : Emission :=
  let k := s.count.get e + 1
  let done := k == s.cfg.respLen e
  { state := { s with count := s.count.set e (if done then 0 else k) }
    byte := respByte s.cfg e k
    done := done }

/-- The next byte of entry `e`, where nothing depends on whether it is the last. -/
def emitByte (e : Entry) (s : State) : State × Byte := ((emit e s).state, (emit e s).byte)

/-- The next byte of a closing write response; its last byte resets `SECTORS_WRITTEN` (R247). -/
def emitClosing (e : Entry) (s : State) : State × Byte :=
  (if (emit e s).done then clearSectorsWritten (emit e s).state else (emit e s).state,
    (emit e s).byte)

/-- GO_IDLE_STATE (R243): `initialize(PREFER_LBA)`, then the normal or the error-variant entry. -/
def respondGoIdle (s : State) : State × Byte :=
  let m := initDrive s.cfg.preferLba s
  if m.2 = .lba then emitByte .idle m.1 else emitByte .idleErr m.1

/-- SEND_IF_COND (R244). -/
def respondSendIfCond (s : State) : State × Byte := emitByte .ifCond s

/-- STOP_TRANSMISSION (R245). -/
def respondStopTransmission (s : State) : State × Byte := emitByte .stop s

/-- READ_MULTIPLE_BLOCK (R246). -/
def respondReadMultiple (s : State) : State × Byte :=
  if s.readInProgress then emitByte .readNext s else emitByte .readFirst s

/-- WRITE_MULTIPLE_BLOCK (R247). -/
def respondWriteMultiple (s : State) : State × Byte :=
  if s.writeInProgress then emitByte .wrNext s
  else if s.sectorsWritten = 0 then emitByte .wrStart s
  else if s.sectorsWritten = 1 then emitClosing .wrEnd1 s
  else emitClosing .wrEndN s

/-- APP_CMD (R248). -/
def respondAppCmd (s : State) : State × Byte := emitByte .appCmd s

/-- SD_SEND_OP_COND (R249). -/
def respondSendOpCond (s : State) : State × Byte := emitByte .opCond s

/-- READ_OCR (R250). -/
def respondReadOcr (s : State) : State × Byte := emitByte .ocr s

/-- Any other command (R251): log code and argument, answer a null byte. -/
def respondUnrecognized (s : State) : State × Byte :=
  (logEvent .warning (.unknownCommand s.cmd s.arg) s, 0x00)

/-- `produceResponseByte`: the case split on `CMD` (R241, R242). -/
def respond (s : State) : State × Byte :=
  if s.cmd = s.cfg.sdGoIdle then respondGoIdle s
  else if s.cmd = s.cfg.sdSendIfCond then respondSendIfCond s
  else if s.cmd = s.cfg.sdStopTransmission then respondStopTransmission s
  else if s.cmd = s.cfg.sdReadMultiple then respondReadMultiple s
  else if s.cmd = s.cfg.sdWriteMultiple then respondWriteMultiple s
  else if s.cmd = s.cfg.sdAppCmd then respondAppCmd s
  else if s.cmd = s.cfg.sdSendOpCond then respondSendOpCond s
  else if s.cmd = s.cfg.sdReadOcr then respondReadOcr s
  else respondUnrecognized s

/-- One response byte, returned to the host. -/
def answer (s : State) : State := returns (.byte (respond s).2) (respond s).1

/-- `n` response bytes in a row. -/
def answers : Nat → State → State
  | 0, s => s
  | n + 1, s => answers n (answer s)

/-- An SD command as the host sends it: the six bytes of the frame are delivered (R91, R220), and then the host
asks for `reads` response bytes (R241). Nothing is dispatched when the frame closes (R226): with
`reads = 0` the frame is delivered and nothing else (log entry 3). -/
def sdCommand (cmd : CmdCode) (arg : CmdArg) (crc reads : Byte) (s : State) : State :=
  answers reads.toNat (consumeAll (frameBytes cmd arg crc) s)

/-- GO_IDLE_STATE (R243). -/
def execGoIdleState (arg : CmdArg) (crc reads : Byte) (s : State) :
    Host.Outcome State Fault Refusal :=
  .next (sdCommand s.cfg.sdGoIdle arg crc reads s)

/-- SEND_IF_COND (R244). -/
def execSendIfCond (arg : CmdArg) (crc reads : Byte) (s : State) :
    Host.Outcome State Fault Refusal :=
  .next (sdCommand s.cfg.sdSendIfCond arg crc reads s)

/-- STOP_TRANSMISSION (R245). -/
def execStopTransmission (arg : CmdArg) (crc reads : Byte) (s : State) :
    Host.Outcome State Fault Refusal :=
  .next (sdCommand s.cfg.sdStopTransmission arg crc reads s)

/-- READ_MULTIPLE_BLOCK (R246). -/
def execReadMultipleBlock (arg : CmdArg) (crc reads : Byte) (s : State) :
    Host.Outcome State Fault Refusal :=
  .next (sdCommand s.cfg.sdReadMultiple arg crc reads s)

/-- WRITE_MULTIPLE_BLOCK (R247). -/
def execWriteMultipleBlock (arg : CmdArg) (crc reads : Byte) (s : State) :
    Host.Outcome State Fault Refusal :=
  .next (sdCommand s.cfg.sdWriteMultiple arg crc reads s)

/-- SD_SEND_OP_COND (R249). -/
def execSdSendOpCond (arg : CmdArg) (crc reads : Byte) (s : State) :
    Host.Outcome State Fault Refusal :=
  .next (sdCommand s.cfg.sdSendOpCond arg crc reads s)

/-- APP_CMD (R248). -/
def execAppCmd (arg : CmdArg) (crc reads : Byte) (s : State) : Host.Outcome State Fault Refusal :=
  .next (sdCommand s.cfg.sdAppCmd arg crc reads s)

/-- READ_OCR (R250). -/
def execReadOcr (arg : CmdArg) (crc reads : Byte) (s : State) :
    Host.Outcome State Fault Refusal :=
  .next (sdCommand s.cfg.sdReadOcr arg crc reads s)

/-- A command with any other code (R251). -/
def execUnrecognizedCommand (cmd : CmdCode) (arg : CmdArg) (crc reads : Byte) (s : State) :
    Host.Outcome State Fault Refusal :=
  .next (sdCommand cmd arg crc reads s)

/-- `produceResponseByte(command)` (R241); the operand is always `CMD` (R242), and a call with another is
refused (U15). -/
def execProduceResponseByte (command : CmdCode) (s : State) : Host.Outcome State Fault Refusal :=
  if command = s.cmd then .next (answer s) else .refused .commandNotCurrent

/-- `sendBlock(buffer, length)` (R256): `writeMultiple` at the frame's argument; `length` is ignored. -/
def execSendBlock (buf : Buffer) (_length : BitVec 16) (s : State) :
    Host.Outcome State Fault Refusal :=
  withBuffer buf sectorSize (multipleOut s.arg buf) s

/-- `receiveBlock(buffer, length)` (R257): the flag is set, then `readMultiple` at the frame's argument;
`length` is ignored. -/
def execReceiveBlock (buf : Buffer) (_length : BitVec 16) (s : State) :
    Host.Outcome State Fault Refusal :=
  withBuffer buf sectorSize (fun t => multipleIn t.arg buf (beginReadSession t)) s

end Sys2Proof.Machine
end

