-- ==== Sys2Proof/Machine/Dispatch.lean ====
section
/-! DEFINITION. One arm per instruction. -/

namespace Sys2Proof.Machine

open Sys2Proof

def exec (i : Instr) (s : State) : Host.Outcome State Fault Refusal :=
  match i with
  | .goIdleState arg crc reads => Sys2Proof.Machine.execGoIdleState arg crc reads s
  | .sendIfCond arg crc reads => Sys2Proof.Machine.execSendIfCond arg crc reads s
  | .stopTransmission arg crc reads => Sys2Proof.Machine.execStopTransmission arg crc reads s
  | .readMultipleBlock arg crc reads => Sys2Proof.Machine.execReadMultipleBlock arg crc reads s
  | .writeMultipleBlock arg crc reads => Sys2Proof.Machine.execWriteMultipleBlock arg crc reads s
  | .sdSendOpCond arg crc reads => Sys2Proof.Machine.execSdSendOpCond arg crc reads s
  | .appCmd arg crc reads => Sys2Proof.Machine.execAppCmd arg crc reads s
  | .readOcr arg crc reads => Sys2Proof.Machine.execReadOcr arg crc reads s
  | .unrecognizedCommand cmd arg crc reads => Sys2Proof.Machine.execUnrecognizedCommand cmd arg crc reads s
  | .tokenStartBlock => Sys2Proof.Machine.execTokenStartBlock s
  | .tokenStopTran => Sys2Proof.Machine.execTokenStopTran s
  | .tokenIdleFF => Sys2Proof.Machine.execTokenIdleFF s
  | .tokenIgnored value => Sys2Proof.Machine.execTokenIgnored value s
  | .argByte value => Sys2Proof.Machine.execArgByte value s
  | .crcByte value => Sys2Proof.Machine.execCrcByte value s
  | .strayByte value => Sys2Proof.Machine.execStrayByte value s
  | .ataReadSectors => Sys2Proof.Machine.execAtaReadSectors s
  | .ataWriteSectors => Sys2Proof.Machine.execAtaWriteSectors s
  | .ataInitDeviceParams => Sys2Proof.Machine.execAtaInitDeviceParams s
  | .ataSetFeatures => Sys2Proof.Machine.execAtaSetFeatures s
  | .setStrobe line state => Sys2Proof.Machine.execSetStrobe line state s
  | .setDataBusDirection dir => Sys2Proof.Machine.execSetDataBusDirection dir s
  | .writeDataBus value => Sys2Proof.Machine.execWriteDataBus value s
  | .readDataBus => Sys2Proof.Machine.execReadDataBus s
  | .setRegisterAddress addr => Sys2Proof.Machine.execSetRegisterAddress addr s
  | .readRegister addr => Sys2Proof.Machine.execReadRegister addr s
  | .writeRegister addr value => Sys2Proof.Machine.execWriteRegister addr value s
  | .waitForStatus mask => Sys2Proof.Machine.execWaitForStatus mask s
  | .initializeDrive preferLba => Sys2Proof.Machine.execInitialize preferLba s
  | .readSector sector size buf => Sys2Proof.Machine.execReadSector sector size buf s
  | .writeSector sector buf => Sys2Proof.Machine.execWriteSector sector buf s
  | .readMultiple sector buf => Sys2Proof.Machine.execReadMultiple sector buf s
  | .writeMultiple sector buf => Sys2Proof.Machine.execWriteMultiple sector buf s
  | .consumeByte value => Sys2Proof.Machine.execConsumeByte value s
  | .produceResponseByte command => Sys2Proof.Machine.execProduceResponseByte command s
  | .sendBlock buf length => Sys2Proof.Machine.execSendBlock buf length s
  | .receiveBlock buf length => Sys2Proof.Machine.execReceiveBlock buf length s

end Sys2Proof.Machine
end

