-- ==== Sys2Proof/Machine/Step.lean ====
section
/-! DEFINITION. One step: one operation of the host port, taken whole (R5). The block has no program counter
(R27): the host's requests stand in `hostIn`, the next one first. -/

namespace Sys2Proof.Machine

open Sys2Proof

/-- Take the next item off the host port, decode it under the configuration at the stream position, and run it.
With no request pending the block does nothing (R27; log entry 1). -/
def step (s : State) : Host.Outcome State Fault Refusal :=
  match fetchItem s with
  | none => .next s
  | some (it, s') =>
    match decode s'.cfg s'.argPos it with
    | .ok i => exec i s'
    | .error why => .refused (.undecodable why)

/-- The state with the instruction of an opcode-table word pending at the host port, at a stream position at
which its row applies; for a word that is no instruction, its item. -/
def State.withFetchWord (s : State) (nbits w : Nat) : State :=
  match decodeTableWord nbits w with
  | some i => placeInstr i s
  | none => placeItem (tableItem nbits w) s

end Sys2Proof.Machine
end

