-- ==== Sys2Proof/Safety.lean ====
section
/-! DEFINITION. The terms the claims are stated in: the invariants of R46, the traces of a register read and a
register write, the runs of drive answers that a poll makes, what an operation leaves unchanged, and a sequence
of operations. -/

namespace Sys2Proof.Machine

open Sys2Proof

/-- The invariant that every step keeps: the configuration is well formed, `ARGPOS` is at most 5 (R46 d), every
emission cursor is below its entry's length (R46 e), and host memory is in its canonical form. -/
structure State.Inv (s : State) : Prop where
  cfgWf : s.cfg.Wf
  argPosBound : s.argPos ≤ 5
  countBound : ∀ e, s.count.get e < s.cfg.respLen e
  memWf : s.hostMem.Wf

/-- No strobe is asserted between operations (R46 a). -/
structure State.StrobesIdle (s : State) : Prop where
  rdIdle : s.rdState ≠ .assert
  wrIdle : s.wrState ≠ .assert

/-- The read strobe is asserted while the block drives the data bus (R46 b, R326). -/
def State.BusContention (s : State) : Prop := s.rdState = .assert ∧ s.dir = .output

/-- The operations of the Bus Signal Layer, which a host may call directly (R290). -/
def isPrimitive : Instr → Bool
  | .setStrobe _ _ | .setDataBusDirection _ | .writeDataBus _ | .readDataBus
  | .setRegisterAddress _ => true
  | .goIdleState _ _ _ | .sendIfCond _ _ _ | .stopTransmission _ _ _ | .readMultipleBlock _ _ _
  | .writeMultipleBlock _ _ _ | .sdSendOpCond _ _ _ | .appCmd _ _ _ | .readOcr _ _ _
  | .unrecognizedCommand _ _ _ _
  | .tokenStartBlock | .tokenStopTran | .tokenIdleFF | .tokenIgnored _
  | .argByte _ | .crcByte _ | .strayByte _
  | .ataReadSectors | .ataWriteSectors | .ataInitDeviceParams | .ataSetFeatures
  | .readRegister _ | .writeRegister _ _ | .waitForStatus _
  | .initializeDrive _ | .readSector _ _ _ | .writeSector _ _ | .readMultiple _ _
  | .writeMultiple _ _ | .consumeByte _ | .produceResponseByte _ | .sendBlock _ _
  | .receiveBlock _ _ => false

/-- The trace of `DriveRead(a) = v` (R150). -/
def readTrace (a : RegAddr) (v : Byte) : List BusEvent :=
  [.strobe .rd .negate, .direction .input, .address a, .strobe .rd .assert, .sample v,
    .strobe .rd .negate]

/-- The trace of `DriveWrite(a, v)` (R152). -/
def writeTrace (a : RegAddr) (v : Byte) : List BusEvent :=
  [.strobe .wr .negate, .direction .output, .load v, .address a, .strobe .wr .assert,
    .strobe .wr .negate]

/-- The trace of reads of one register that give the bytes of a list in turn. -/
def readsTrace (a : RegAddr) (vs : List Byte) : List BusEvent := vs.flatMap (readTrace a)

/-- The trace of writes to one register of the bytes of a list in turn. -/
def writesTrace (a : RegAddr) (vs : List Byte) : List BusEvent := vs.flatMap (writeTrace a)

/-- The status answers that one `waitForStatus(mask)` reads, and its result (R154): on `Ok` the last answer is the
first that meets the condition, and there are at most `STATUS_TIMEOUT_POLLS` of them; on `Timeout` there are
exactly that many, and none meets it. -/
def WaitRun (c : Config) (mask : Byte) (answers : List Byte) : WaitResult → Prop
  | .ok =>
    answers.length ≤ c.statusTimeoutPolls ∧
      ∃ failing met, answers = failing ++ [met] ∧ (∀ st ∈ failing, ¬ StatusMet c mask st) ∧
        StatusMet c mask met
  | .timeout =>
    answers.length = c.statusTimeoutPolls ∧ ∀ st ∈ answers, ¬ StatusMet c mask st

/-- The status answers that the ready-wait reads when it finds the drive ready (R174). -/
def ReadyRun (c : Config) (answers : List Byte) : Prop :=
  answers.length ≤ c.initReadyPolls ∧
    ∃ failing ready, answers = failing ++ [ready] ∧ (∀ st ∈ failing, ¬ DriveReady c st) ∧
      DriveReady c ready

/-- The status answers that the ready-wait reads when it gives up (R175). -/
def NotReadyRun (c : Config) (answers : List Byte) : Prop :=
  answers.length = c.initReadyPolls ∧ ∀ st ∈ answers, ¬ DriveReady c st

/-- The log events of a status wait, newest first: one warning on a timeout (R154). -/
def waitLog : WaitResult → List LogEvent
  | .ok => []
  | .timeout => [⟨.warning, .statusTimeout⟩]

/-- The four drive register writes of `LoadAddrRead` (R190), as the rule lists them. -/
def loadAddrReadTrace (c : Config) (sec : Sector) : List BusEvent :=
  writeTrace c.regLba0 (sec.extractLsb' 0 8) ++ writeTrace c.regLba1 (sec.extractLsb' 8 8) ++
    writeTrace c.regLba2 (sec.extractLsb' 16 8) ++
    writeTrace c.regDriveHead (0xE#4 ++ sec.extractLsb' 24 4)

/-- The drive register accesses of `LoadAddrWrite` (R193), as the rule lists them: the drive/head byte written
keeps the upper nibble of the byte `h` just read. -/
def loadAddrWriteTrace (c : Config) (sec : Sector) (h : Byte) : List BusEvent :=
  writeTrace c.regLba0 (sec.extractLsb' 0 8) ++ writeTrace c.regLba1 (sec.extractLsb' 8 8) ++
    writeTrace c.regLba2 (sec.extractLsb' 16 8) ++ readTrace c.regDriveHead h ++
    writeTrace c.regDriveHead (h.extractLsb' 4 4 ++ sec.extractLsb' 24 4)

/-- The bytes of a buffer, in buffer order (R67). -/
def bufferContents (m : Memory) (buf : Buffer) (n : Nat) : List Byte :=
  (List.range n).map (fun i => m.read (bufAddr buf i))

/-- Only the Bus Signal Layer, the drive's pending answers, the trace and the log may differ. -/
def BusOnly (s t : State) : Prop :=
  t = { s with
    rdState := t.rdState, wrState := t.wrState, dir := t.dir, dout := t.dout,
    doutWritten := t.doutWritten, addr := t.addr, addrWritten := t.addrWritten,
    driveIn := t.driveIn, events := t.events, log := t.log }

/-- The FRAME rows of the opcode table, each with its command code (R98, R99). -/
inductive FrameRow (c : Config) : CmdCode → (CmdArg → Byte → Byte → Instr) → Prop
  | goIdleState : FrameRow c c.sdGoIdle .goIdleState
  | sendIfCond : FrameRow c c.sdSendIfCond .sendIfCond
  | stopTransmission : FrameRow c c.sdStopTransmission .stopTransmission
  | readMultipleBlock : FrameRow c c.sdReadMultiple .readMultipleBlock
  | writeMultipleBlock : FrameRow c c.sdWriteMultiple .writeMultipleBlock
  | sdSendOpCond : FrameRow c c.sdSendOpCond .sdSendOpCond
  | appCmd : FrameRow c c.sdAppCmd .appCmd
  | readOcr : FrameRow c c.sdReadOcr .readOcr
  | unrecognizedCommand (cmd : CmdCode) : FrameRow c cmd (.unrecognizedCommand cmd)

/-- The instruction is a FRAME row. -/
def IsFrame (c : Config) (i : Instr) : Prop :=
  ∃ cmd f arg crc reads, FrameRow c cmd f ∧ i = f arg crc reads

/-- The instruction is a FRAME row whose host asks for at least one response byte (log entry 3). -/
def AsksForResponses (c : Config) (i : Instr) : Prop :=
  ∃ cmd f arg crc reads, FrameRow c cmd f ∧ reads ≠ 0 ∧ i = f arg crc reads

/-- The rows that deliver one byte of the stream, each with its byte: the TOKEN and BYTE rows and
`consumeByte` (R95, R96, R220). -/
inductive StreamRow : Byte → Instr → Prop
  | tokenStartBlock : StreamRow 0xFC .tokenStartBlock
  | tokenStopTran : StreamRow 0xFD .tokenStopTran
  | tokenIdleFF : StreamRow 0xFF .tokenIdleFF
  | tokenIgnored (b : Byte) : StreamRow b (.tokenIgnored b)
  | argByte (b : Byte) : StreamRow b (.argByte b)
  | crcByte (b : Byte) : StreamRow b (.crcByte b)
  | strayByte (b : Byte) : StreamRow b (.strayByte b)
  | consumeByte (b : Byte) : StreamRow b (.consumeByte b)

/-- The instruction delivers one byte of the stream. -/
def IsStream (i : Instr) : Prop := ∃ b, StreamRow b i

/-- Entry `e` emits byte `b`, and its cursor becomes `k` (R240): `b` is the byte after the cursor in the entry's
row, and the cursor wraps to 0 after the last byte. -/
def Emits (e : Entry) (s : State) (b : Byte) (k : Nat) : Prop :=
  (s.cfg.resp.get e)[s.count.get e + 1]? = some b ∧
    k = if s.count.get e + 1 = s.cfg.respLen e then 0 else s.count.get e + 1

/-- The state after entry `e` has emitted byte `b` as the answer to the host. -/
def answered (e : Entry) (b : Byte) (k : Nat) (s : State) : State :=
  { s with count := s.count.set e k, results := .byte b :: s.results }

/-- A list of instructions run in order; it stops at the first that does not answer a next state. -/
def execAll : List Instr → State → Host.Outcome State Fault Refusal
  | [], s => .next s
  | i :: is, s =>
    match exec i s with
    | .next t => execAll is t
    | .fault r => .fault r
    | .refused r => .refused r

/-- `P` holds from `s` on until a bus event that ends it: after every list of instructions among whose bus events
there is none of those. -/
def HoldsUntil (ends : BusEvent → Prop) (P : State → Prop) (s : State) : Prop :=
  ∀ (is : List Instr) (t : State) (evs : List BusEvent), execAll is s = .next t →
    t.trace = s.trace ++ evs → (∀ e ∈ evs, ¬ ends e) → P t

/-- A load of the data output latch. -/
def IsLoad (e : BusEvent) : Prop := ∃ v, e = .load v

/-- A load of the address latch. -/
def IsAddress (e : BusEvent) : Prop := ∃ a, e = .address a

/-- The number of register accesses of an operation is at most `n`, besides `extra` single bus events: each
access is six bus events (R337). -/
def AccessBound (n extra : Nat) (s t : State) : Prop :=
  t.events.length ≤ s.events.length + 6 * n + extra

end Sys2Proof.Machine
end

