-- ==== Sys2Proof/Certificates/Slice0/Obligations.lean ====
section
/-! DEFINITION. The statements for the provers. Each docstring names the rules it states. In every statement
about a sample, the byte is the drive's (R76): the pending answer where one is pending, any byte otherwise. -/

open Sys2Proof Sys2Proof.Machine

/-- R45: the reset table. The values other than `MODE` are decisions of the spec (D21, D22); `DOUT` and `ADDR` are
unwritten, and the zeros they hold (log entry 14) are not stated. -/
def Obligations.ResetLeavesTheTableOfR45 : Prop :=
  State.reset.rdState = .highZ ∧ State.reset.wrState = .highZ ∧ State.reset.dir = .input ∧
    State.reset.doutWritten = false ∧ State.reset.addrWritten = false ∧
    State.reset.mode = .notInitialized ∧ State.reset.busResolved = false ∧
    State.reset.rcur = ⟨0, 0⟩ ∧ State.reset.wcur = ⟨0, 0⟩ ∧ State.reset.argPos = 0 ∧
    State.reset.cmd = 0 ∧ State.reset.arg = 0 ∧ State.reset.readInProgress = false ∧
    State.reset.writeInProgress = false ∧ State.reset.sectorsWritten = 0 ∧
    ∀ e, State.reset.count.get e = 0

/-- R46: the invariants hold after reset, whatever the free response table is. -/
def Obligations.ResetMeetsTheInvariants : Prop :=
  State.reset.Inv ∧ State.reset.StrobesIdle ∧ ¬ State.reset.BusContention

/-- R131: the named line takes the state, the other line keeps its own, one event; nothing else changes. That it
completes in every state, a strobe asserted before any address is written included, follows R130, R131 and vector VB2
over the treatment that U6 names; this is log entry 20 (DEDUCED). -/
def Obligations.SetStrobeWritesItsLineOnly : Prop :=
  ∀ (st : StrobeState) (s : State),
    exec (.setStrobe .rd st) s =
        .next { s with rdState := st, events := .strobe .rd st :: s.events } ∧
      exec (.setStrobe .wr st) s =
        .next { s with wrState := st, events := .strobe .wr st :: s.events }

/-- R132: the direction is written, `DOUT` is kept, one event. With `Input` the data pins are released, until the
direction becomes `Output`; with `Output` they carry `DOUT`, once it has been written, until the next load or until the
direction becomes `Input`. -/
def Obligations.SetDirectionKeepsTheLatch : Prop :=
  ∀ (d : Direction) (s : State), ∃ t, exec (.setDataBusDirection d) s = .next t ∧
    t = { s with dir := d, events := .direction d :: s.events } ∧
      (d = .input →
        HoldsUntil (fun e => e = .direction .output) (fun u => u.dataPins = .released) t) ∧
      (d = .output → s.doutWritten = true →
        HoldsUntil (fun e => IsLoad e ∨ e = .direction .input)
          (fun u => u.dataPins = .driven s.dout) t)

/-- R133: in Output direction the latch is loaded, one event, and the value is on the pins and stays there until the
next load or until the direction becomes `Input`. -/
def Obligations.WriteDataBusLoadsTheLatch : Prop :=
  ∀ (v : Byte) (s : State), s.dir = .output → ∃ t, exec (.writeDataBus v) s = .next t ∧
    t = { s with dout := v, doutWritten := true, events := .load v :: s.events } ∧
      HoldsUntil (fun e => IsLoad e ∨ e = .direction .input) (fun u => u.dataPins = .driven v) t

/-- R134: in Input direction the drive's byte is returned, one event, and no state of the block changes. -/
def Obligations.ReadDataBusReturnsTheDrivesByte : Prop :=
  ∀ s : State, s.dir = .input → ∃ v : Byte,
    (∀ b rest, s.driveIn = b :: rest → v = b) ∧
      exec .readDataBus s =
        .next { s with
          driveIn := s.driveIn.tail, events := .sample v :: s.events,
          results := .byte v :: s.results }

/-- R135: the address latch is loaded, one event, and the address is on the pins from then on, whatever the direction,
until the next load of the latch. -/
def Obligations.SetRegisterAddressLoadsTheLatch : Prop :=
  ∀ (a : RegAddr) (s : State), ∃ t, exec (.setRegisterAddress a) s = .next t ∧
    t = { s with addr := a, addrWritten := true, events := .address a :: s.events } ∧
      HoldsUntil IsAddress (fun u => u.addrPins = .driven a) t

/-- R26: the pins as a function of the state, for latches that have been written. -/
def Obligations.PinsFollowTheState : Prop :=
  ∀ s : State,
    (s.rdState = .highZ → s.rdPin = .released) ∧
      (s.rdState = .assert → s.rdPin = .driven s.cfg.strobeActiveLevel) ∧
      (s.rdState = .negate → s.rdPin = .driven s.cfg.strobeActiveLevel.opposite) ∧
      (s.wrState = .highZ → s.wrPin = .released) ∧
      (s.wrState = .assert → s.wrPin = .driven s.cfg.strobeActiveLevel) ∧
      (s.wrState = .negate → s.wrPin = .driven s.cfg.strobeActiveLevel.opposite) ∧
      (s.dir = .output → s.doutWritten = true → s.dataPins = .driven s.dout) ∧
      (s.dir = .input → s.dataPins = .released) ∧
      (s.addrWritten = true → s.addrPins = .driven s.addr)

/-- R130: each primitive that completes performs exactly one bus event and writes no state outside
`(RD_STATE, WR_STATE, DIR, DOUT, ADDR)`; only a sample takes a pending answer and returns a value. -/
def Obligations.EachPrimitiveIsOneBusEvent : Prop :=
  ∀ (i : Instr) (s t : State), isPrimitive i = true → exec i s = .next t →
    (∃ e, t.events = e :: s.events) ∧
      (i ≠ .readDataBus → t.driveIn = s.driveIn ∧ t.results = s.results) ∧
      BusOnly s { t with results := s.results } ∧ t.log = s.log

/-- U1, U2, U3, U4, U15: the calls outside the contract are refused, each by its name. -/
def Obligations.CallsOutsideTheContractAreRefused : Prop :=
  ∀ s : State,
    (∀ v, s.dir = .input → exec (.writeDataBus v) s = .refused .writeBusWhileInput) ∧
      (s.dir = .output → exec .readDataBus s = .refused .readBusWhileOutput) ∧
      (∀ sec size buf, 512 < size.toNat →
        exec (.readSector sec size buf) s = .refused .sizeOverSector) ∧
      (∀ sec size buf, size.toNat ≤ 512 → buf.cap.toNat < size.toNat →
        exec (.readSector sec size buf) s = .refused .bufferTooShort) ∧
      (∀ sec buf len, buf.cap.toNat < 512 →
        exec (.writeSector sec buf) s = .refused .bufferTooShort ∧
          exec (.readMultiple sec buf) s = .refused .bufferTooShort ∧
          exec (.writeMultiple sec buf) s = .refused .bufferTooShort ∧
          exec (.sendBlock buf len) s = .refused .bufferTooShort ∧
          exec (.receiveBlock buf len) s = .refused .bufferTooShort) ∧
      (∀ cmd, cmd ≠ s.cmd → exec (.produceResponseByte cmd) s = .refused .commandNotCurrent)

/-- R150: the six events in order, the state after, the byte returned; `WR_STATE` and `DOUT` unchanged, and
nothing above the Bus Signal Layer. -/
def Obligations.ReadRegisterIsSixEvents : Prop :=
  ∀ (a : RegAddr) (s : State), ∃ v : Byte,
    (∀ b rest, s.driveIn = b :: rest → v = b) ∧
      exec (.readRegister a) s =
        .next { s with
          rdState := .negate, dir := .input, addr := a, addrWritten := true,
          driveIn := s.driveIn.tail, results := .byte v :: s.results,
          events := [.strobe .rd .negate, .sample v, .strobe .rd .assert, .address a,
            .direction .input, .strobe .rd .negate] ++ s.events }

/-- R152: the six events in order and the state after; `RD_STATE` unchanged, nothing returned. -/
def Obligations.WriteRegisterIsSixEvents : Prop :=
  ∀ (a : RegAddr) (v : Byte) (s : State),
    exec (.writeRegister a v) s =
      .next { s with
        wrState := .negate, dir := .output, dout := v, doutWritten := true, addr := a,
        addrWritten := true,
        events := [.strobe .wr .negate, .strobe .wr .assert, .address a, .load v,
          .direction .output, .strobe .wr .negate] ++ s.events }

/-- R104 (with R70): a command byte is one register write of `REG_STATUS_CMD`. That a row of the format ATACMD is
this write is the model's reading (log entry 4). -/
def Obligations.AtaCommandByteIsOneStatusCommandWrite : Prop :=
  ∀ s : State,
    (∃ t, exec .ataReadSectors s = .next t ∧
        exec (.writeRegister s.cfg.regStatusCmd s.cfg.ataRead) s = .next t) ∧
      (∃ t, exec .ataWriteSectors s = .next t ∧
        exec (.writeRegister s.cfg.regStatusCmd s.cfg.ataWrite) s = .next t) ∧
      (∃ t, exec .ataInitDeviceParams s = .next t ∧
        exec (.writeRegister s.cfg.regStatusCmd s.cfg.ataInitParams) s = .next t) ∧
      (∃ t, exec .ataSetFeatures s = .next t ∧
        exec (.writeRegister s.cfg.regStatusCmd s.cfg.ataSetFeatures) s = .next t)

/-- R154: on the answers of a run, the status register is read once for each, nothing else is accessed, the result
and the log are the run's; `Timeout` comes after exactly `STATUS_TIMEOUT_POLLS` reads, with one warning. -/
def Obligations.WaitForStatusReadsUntilMetOrTheBound : Prop :=
  ∀ (mask : Byte) (answers rest : List Byte) (r : WaitResult) (s : State),
    s.driveIn = answers ++ rest → WaitRun s.cfg mask answers r →
      ∃ t, exec (.waitForStatus mask) s = .next t ∧ t.results = .wait r :: s.results ∧
        t.trace = s.trace ++ readsTrace s.cfg.regStatusCmd answers ∧ t.driveIn = rest ∧
        t.log = waitLog r ++ s.log ∧ t.wrState = s.wrState ∧ t.dout = s.dout ∧
        t.doutWritten = s.doutWritten ∧ BusOnly s { t with results := s.results }

/-- R155 b, e: a mask that contains Busy is never satisfied: Timeout after exactly `STATUS_TIMEOUT_POLLS` reads,
whatever the drive answers (none at all when that number is 0). -/
def Obligations.BusyMaskAlwaysTimesOut : Prop :=
  ∀ (mask : Byte) (s : State), s.cfg.stBsy ≠ 0 → s.cfg.stBsy &&& mask = s.cfg.stBsy →
    ∃ t, exec (.waitForStatus mask) s = .next t ∧ t.results = .wait .timeout :: s.results ∧
      t.events.length = s.events.length + 6 * s.cfg.statusTimeoutPolls ∧
      t.log = ⟨.warning, .statusTimeout⟩ :: s.log

/-- R154, R156: from every state `waitForStatus` returns, after at most `STATUS_TIMEOUT_POLLS` reads, and changes
no state above the Bus Signal Layer. -/
def Obligations.WaitForStatusAlwaysReturns : Prop :=
  ∀ (mask : Byte) (s : State), ∃ t r, exec (.waitForStatus mask) s = .next t ∧
    t.results = .wait r :: s.results ∧ AccessBound s.cfg.statusTimeoutPolls 0 s t ∧
    BusOnly s { t with results := s.results }

/-- R171: once initialized, the cached mode is returned at once; the trace is empty, no state changes and
`preferLba` is ignored. -/
def Obligations.InitializeIsIdempotent : Prop :=
  ∀ (p : Bool) (s : State), s.mode ≠ .notInitialized →
    exec (.initializeDrive p) s = .next { s with results := .mode s.mode :: s.results }

/-- R172, R173: bus set-up and probe; a first status with Busy clear is reported as an absent drive. -/
def Obligations.ProbeWithBusyClearIsDriveAbsent : Prop :=
  ∀ (p : Bool) (st : Byte) (rest : List Byte) (s : State), s.mode = .notInitialized →
    s.driveIn = st :: rest → st &&& s.cfg.stBsy = 0 →
      ∃ t, exec (.initializeDrive p) s = .next t ∧
        t.results = .mode .notInitialized :: s.results ∧ t.driveIn = rest ∧
        t.trace = s.trace ++ [.strobe .rd .negate, .strobe .wr .negate] ++
          readTrace s.cfg.regStatusCmd st ∧
        t.log = ⟨.error, .driveAbsent⟩ :: s.log ∧ t.dout = s.dout ∧
        t.rdState = .negate ∧ t.wrState = .negate ∧
        BusOnly { s with busResolved := true } { t with results := s.results }

/-- R174, R175: a drive that is not ready in `INIT_READY_POLLS` reads after the probe is a timeout. -/
def Obligations.ReadyWaitTimesOutAfterItsBound : Prop :=
  ∀ (p : Bool) (probe : Byte) (answers rest : List Byte) (s : State),
    s.mode = .notInitialized → s.driveIn = probe :: answers ++ rest →
      probe &&& s.cfg.stBsy ≠ 0 → NotReadyRun s.cfg answers →
        ∃ t, exec (.initializeDrive p) s = .next t ∧
          t.results = .mode .notInitialized :: s.results ∧ t.driveIn = rest ∧
          t.trace = s.trace ++ [.strobe .rd .negate, .strobe .wr .negate] ++
            readsTrace s.cfg.regStatusCmd (probe :: answers) ∧
          t.log = ⟨.error, .initTimeout⟩ :: s.log ∧ t.rdState = .negate ∧ t.wrState = .negate ∧
          BusOnly { s with busResolved := true } { t with results := s.results }

/-- R172 to R181 with `preferLba`: the whole listing, on every run of drive answers that gets past the ready-wait.
The two status waits may end either way; LBA capability chooses the candidate; an aborted command fails the
call. -/
def Obligations.InitializePreferringLbaFollowsTheListing : Prop :=
  ∀ (probe d e : Byte) (ready wait1 wait2 rest : List Byte) (r1 r2 : WaitResult) (s : State),
    s.mode = .notInitialized →
      s.driveIn = [probe] ++ ready ++ wait1 ++ [d] ++ wait2 ++ [e] ++ rest →
      probe &&& s.cfg.stBsy ≠ 0 → ReadyRun s.cfg ready → WaitRun s.cfg 0x00 wait1 r1 →
      WaitRun s.cfg 0x00 wait2 r2 →
        ∃ t m, exec (.initializeDrive true) s = .next t ∧
          m = (if e &&& s.cfg.erAbrt ≠ 0 then .notInitialized
            else if d &&& s.cfg.dhLba ≠ 0 then .lba else .chs) ∧
          t.results = .mode m :: s.results ∧ t.driveIn = rest ∧
          t.trace = s.trace ++ [.strobe .rd .negate, .strobe .wr .negate] ++
            readsTrace s.cfg.regStatusCmd (probe :: ready) ++
            writeTrace s.cfg.regDriveHead 0xE0 ++
            writeTrace s.cfg.regStatusCmd s.cfg.ataInitParams ++
            readsTrace s.cfg.regStatusCmd wait1 ++ readTrace s.cfg.regDriveHead d ++
            writeTrace s.cfg.regErrFeat s.cfg.feat8Bit ++
            writeTrace s.cfg.regStatusCmd s.cfg.ataSetFeatures ++
            readsTrace s.cfg.regStatusCmd wait2 ++ readTrace s.cfg.regErrFeat e ∧
          t.log = (if e &&& s.cfg.erAbrt ≠ 0 then [⟨.error, .transferModeUnsupported⟩] else []) ++
            waitLog r2 ++
            (if d &&& s.cfg.dhLba ≠ 0 then [] else [⟨.warning, .lbaUnsupported⟩]) ++
            waitLog r1 ++ s.log ∧
          t.rdState = .negate ∧ t.wrState = .negate ∧
          BusOnly { s with busResolved := true, mode := m } { t with results := s.results }

/-- R172 to R181 without `preferLba` (R178): no drive/head write and no initialize-device-parameters command; the
candidate is `CHS`. Decisions of the spec: the order of the two strobes and the reads of the ready-wait (D12), the
skipped stage (D13), the wait's result not acted on (D15), the one read of the error register (D16); log entries
23, 24, 32. -/
def Obligations.InitializeWithoutLbaSkipsAddressing : Prop :=
  ∀ (probe e : Byte) (ready wait2 rest : List Byte) (r2 : WaitResult) (s : State),
    s.mode = .notInitialized → s.driveIn = [probe] ++ ready ++ wait2 ++ [e] ++ rest →
      probe &&& s.cfg.stBsy ≠ 0 → ReadyRun s.cfg ready → WaitRun s.cfg 0x00 wait2 r2 →
        ∃ t m, exec (.initializeDrive false) s = .next t ∧
          m = (if e &&& s.cfg.erAbrt ≠ 0 then .notInitialized else .chs) ∧
          t.results = .mode m :: s.results ∧ t.driveIn = rest ∧
          t.trace = s.trace ++ [.strobe .rd .negate, .strobe .wr .negate] ++
            readsTrace s.cfg.regStatusCmd (probe :: ready) ++
            writeTrace s.cfg.regErrFeat s.cfg.feat8Bit ++
            writeTrace s.cfg.regStatusCmd s.cfg.ataSetFeatures ++
            readsTrace s.cfg.regStatusCmd wait2 ++ readTrace s.cfg.regErrFeat e ∧
          t.log = (if e &&& s.cfg.erAbrt ≠ 0 then [⟨.error, .transferModeUnsupported⟩] else []) ++
            waitLog r2 ++ s.log ∧
          t.rdState = .negate ∧ t.wrState = .negate ∧
          BusOnly { s with busResolved := true, mode := m } { t with results := s.results }

/-- R170, R337: from every state `initialize` returns, with `MODE` as its result, after at most
`37 + 2N` register accesses (with `INIT_READY_POLLS = 30`) and two strobe events; only the bus, `BUS_RESOLVED`,
`MODE` and the log change. The number of accesses rests on decisions of the spec: the ready-wait's reads beside a
separate probe (D12), the drive/head register read back (D14), one read of the error register (D16); log entries
23, 24. -/
def Obligations.InitializeReturnsTheModeWithinItsBound : Prop :=
  ∀ (p : Bool) (s : State), ∃ t, exec (.initializeDrive p) s = .next t ∧
    t.results = .mode t.mode :: s.results ∧
    AccessBound (7 + s.cfg.initReadyPolls + 2 * s.cfg.statusTimeoutPolls) 2 s t ∧
    BusOnly { s with mode := t.mode, busResolved := t.busResolved } { t with results := s.results }

/-- R30, R31, R46 c, f, over all instructions: `MODE`, once `LBA` or `CHS`, never changes; `BUS_RESOLVED`, once
true, stays true. -/
def Obligations.ModeAndBusResolvedAreSticky : Prop :=
  ∀ (i : Instr) (s t : State), exec i s = .next t →
    (s.mode ≠ .notInitialized → t.mode = s.mode) ∧
      (s.busResolved = true → t.busResolved = true)

/-- R30 to R41, over all instructions: each element above the bus is written only by the operations its rule names, and
by the FRAME rows made of them: the six bytes of a row go to the decoder, and each response byte it asks for is one
`produceResponseByte`, so that a row that asks for none writes no mode and no emission cursor (R226; log entry 3). -/
def Obligations.StateElementsHaveTheirWriters : Prop :=
  ∀ (i : Instr) (s t : State), exec i s = .next t →
    ((t.mode ≠ s.mode ∨ t.busResolved ≠ s.busResolved) →
        (∃ p, i = .initializeDrive p) ∨ i = .produceResponseByte s.cfg.sdGoIdle ∨
          AsksForResponses s.cfg i) ∧
      (t.rcur ≠ s.rcur → (∃ sec buf, i = .readMultiple sec buf) ∨ ∃ buf n, i = .receiveBlock buf n) ∧
      (t.wcur ≠ s.wcur → (∃ sec buf, i = .writeMultiple sec buf) ∨ ∃ buf n, i = .sendBlock buf n) ∧
      ((t.argPos ≠ s.argPos ∨ t.cmd ≠ s.cmd ∨ t.arg ≠ s.arg ∨
          t.writeInProgress ≠ s.writeInProgress) → IsStream i ∨ IsFrame s.cfg i) ∧
      (t.readInProgress ≠ s.readInProgress →
        IsStream i ∨ IsFrame s.cfg i ∨ ∃ buf n, i = .receiveBlock buf n) ∧
      (t.sectorsWritten ≠ s.sectorsWritten →
        IsStream i ∨ IsFrame s.cfg i ∨ ∃ cmd, i = .produceResponseByte cmd) ∧
      (t.count ≠ s.count → AsksForResponses s.cfg i ∨ ∃ cmd, i = .produceResponseByte cmd) ∧
      (t.hostMem ≠ s.hostMem → (∃ sec n buf, i = .readSector sec n buf) ∨
        (∃ sec buf, i = .readMultiple sec buf) ∨ ∃ buf n, i = .receiveBlock buf n) ∧
      t.cfg = s.cfg ∧ t.hostIn = s.hostIn

/-- R190, R192, R67: a read that finds Data-Request moves exactly `size` bytes, in buffer order, and returns
`size`; every byte of host memory outside them is unchanged. -/
def Obligations.ReadSectorMovesExactlySizeBytes : Prop :=
  ∀ (sec : Sector) (size : BitVec 16) (buf : Buffer) (ws data rest : List Byte) (s : State),
    s.hostMem.Wf → size.toNat ≤ 512 → size.toNat ≤ buf.cap.toNat →
      s.driveIn = ws ++ data ++ rest → WaitRun s.cfg s.cfg.stDrq ws .ok →
      data.length = size.toNat →
        ∃ t, exec (.readSector sec size buf) s = .next t ∧
          t.results = .number size.toNat :: s.results ∧ t.driveIn = rest ∧
          t.trace = s.trace ++ loadAddrReadTrace s.cfg sec ++
            writeTrace s.cfg.regStatusCmd s.cfg.ataRead ++ readsTrace s.cfg.regStatusCmd ws ++
            readsTrace s.cfg.regData data ∧
          t.log = s.log ∧
          (∀ (j : Nat) (hj : j < data.length), t.hostMem.read (bufAddr buf j) = data[j]) ∧
          (∀ a, (a < bufAddr buf 0 ∨ bufAddr buf size.toNat ≤ a) →
            t.hostMem.read a = s.hostMem.read a) ∧
          BusOnly { s with hostMem := t.hostMem } { t with results := s.results }

/-- R192: a read that times out moves nothing, returns 0, leaves the buffer untouched and logs a warning and then
an error. -/
def Obligations.ReadSectorTimeoutMovesNothing : Prop :=
  ∀ (sec : Sector) (size : BitVec 16) (buf : Buffer) (ws rest : List Byte) (s : State),
    size.toNat ≤ 512 → size.toNat ≤ buf.cap.toNat → s.driveIn = ws ++ rest →
      WaitRun s.cfg s.cfg.stDrq ws .timeout →
        ∃ t, exec (.readSector sec size buf) s = .next t ∧
          t.results = .number 0 :: s.results ∧ t.driveIn = rest ∧
          t.trace = s.trace ++ loadAddrReadTrace s.cfg sec ++
            writeTrace s.cfg.regStatusCmd s.cfg.ataRead ++ readsTrace s.cfg.regStatusCmd ws ∧
          t.log = [⟨.error, .statusTimeout⟩, ⟨.warning, .statusTimeout⟩] ++ s.log ∧
          BusOnly s { t with results := s.results }

/-- R193, R194, R195: a write that finds Data-Request hands over exactly the 512 bytes of the buffer, in buffer
order, and returns 1; the drive/head byte keeps the upper nibble just read. -/
def Obligations.WriteSectorHandsOverTheBuffer : Prop :=
  ∀ (sec : Sector) (buf : Buffer) (h : Byte) (ws rest : List Byte) (s : State),
    512 ≤ buf.cap.toNat → s.driveIn = h :: ws ++ rest → WaitRun s.cfg s.cfg.stDrq ws .ok →
      ∃ t, exec (.writeSector sec buf) s = .next t ∧
        t.results = .number 1 :: s.results ∧ t.driveIn = rest ∧
        t.trace = s.trace ++ loadAddrWriteTrace s.cfg sec h ++
          writeTrace s.cfg.regStatusCmd s.cfg.ataWrite ++ readsTrace s.cfg.regStatusCmd ws ++
          writesTrace s.cfg.regData (bufferContents s.hostMem buf 512) ∧
        t.log = s.log ∧ BusOnly s { t with results := s.results }

/-- R195: a write that times out hands over nothing and returns 0, with a warning and then an error. -/
def Obligations.WriteSectorTimeoutHandsOverNothing : Prop :=
  ∀ (sec : Sector) (buf : Buffer) (h : Byte) (ws rest : List Byte) (s : State),
    512 ≤ buf.cap.toNat → s.driveIn = h :: ws ++ rest → WaitRun s.cfg s.cfg.stDrq ws .timeout →
      ∃ t, exec (.writeSector sec buf) s = .next t ∧
        t.results = .number 0 :: s.results ∧ t.driveIn = rest ∧
        t.trace = s.trace ++ loadAddrWriteTrace s.cfg sec h ++
          writeTrace s.cfg.regStatusCmd s.cfg.ataWrite ++ readsTrace s.cfg.regStatusCmd ws ∧
        t.log = [⟨.error, .statusTimeout⟩, ⟨.warning, .statusTimeout⟩] ++ s.log ∧
        BusOnly s { t with results := s.results }

/-- R192, R195, R196, R337: within the contract both sector operations return from every state, in every mode,
within their bounds; `MODE` and the cursors are not touched, and a read stores to the first `size` bytes of its
buffer and nowhere else. -/
def Obligations.SectorOperationsCompleteInEveryMode : Prop :=
  (∀ (sec : Sector) (size : BitVec 16) (buf : Buffer) (s : State), size.toNat ≤ 512 →
      size.toNat ≤ buf.cap.toNat →
        ∃ t n, exec (.readSector sec size buf) s = .next t ∧ t.results = .number n :: s.results ∧
          (n = 0 ∨ n = size.toNat) ∧ AccessBound (5 + s.cfg.statusTimeoutPolls + 512) 0 s t ∧
          (∀ a, (a < bufAddr buf 0 ∨ bufAddr buf size.toNat ≤ a) →
            t.hostMem.read a = s.hostMem.read a) ∧
          BusOnly { s with hostMem := t.hostMem } { t with results := s.results }) ∧
    ∀ (sec : Sector) (buf : Buffer) (s : State), 512 ≤ buf.cap.toNat →
      ∃ t n, exec (.writeSector sec buf) s = .next t ∧ t.results = .number n :: s.results ∧
        (n = 0 ∨ n = 1) ∧ AccessBound (6 + s.cfg.statusTimeoutPolls + 512) 0 s t ∧
        BusOnly s { t with results := s.results }

/-- R63, R105: bits 31:28 of a sector number do not reach the drive. -/
def Obligations.SectorBitsAbove27AreDropped : Prop :=
  ∀ (sec sec' : Sector) (size : BitVec 16) (buf : Buffer) (s : State),
    sec.extractLsb' 0 28 = sec'.extractLsb' 0 28 →
      exec (.readSector sec size buf) s = exec (.readSector sec' size buf) s ∧
        exec (.writeSector sec buf) s = exec (.writeSector sec' buf) s

/-- R197: the cursor is anchored, one whole sector is read at its current sector, and the cursor advances
modulo 2^32 whatever the result. -/
def Obligations.ReadMultipleReadsAtTheCursor : Prop :=
  ∀ (sec : Sector) (buf : Buffer) (s : State), 512 ≤ buf.cap.toNat →
    ∃ cur u, cur = (if sec = s.rcur.anchor then s.rcur.current else sec) ∧
      exec (.readSector cur 512 buf) s = .next u ∧
      exec (.readMultiple sec buf) s = .next { u with rcur := ⟨sec, cur + 1⟩ }

/-- R198: the same for writes, with the write cursor. -/
def Obligations.WriteMultipleWritesAtTheCursor : Prop :=
  ∀ (sec : Sector) (buf : Buffer) (s : State), 512 ≤ buf.cap.toNat →
    ∃ cur u, cur = (if sec = s.wcur.anchor then s.wcur.current else sec) ∧
      exec (.writeSector cur buf) s = .next u ∧
      exec (.writeMultiple sec buf) s = .next { u with wcur := ⟨sec, cur + 1⟩ }

/-- R199 a, b, d: after a call, a call with the same starting sector continues one sector further, whether or not
the calls succeed; a call with another starting sector begins there. -/
def Obligations.SameStartContinuesOtherStartRestarts : Prop :=
  ∀ (sec sec' : Sector) (buf buf' : Buffer) (s t u : State),
    (exec (.readMultiple sec buf) s = .next t → exec (.readMultiple sec' buf') t = .next u →
        u.rcur.anchor = sec' ∧
          u.rcur.current = if sec' = sec then t.rcur.current + 1 else sec' + 1) ∧
      (exec (.writeMultiple sec buf) s = .next t → exec (.writeMultiple sec' buf') t = .next u →
        u.wcur.anchor = sec' ∧
          u.wcur.current = if sec' = sec then t.wcur.current + 1 else sec' + 1)

/-- R221: the start-of-block token, taken while no frame is open, as a row and as `consumeByte` of its byte. That
the count of written sectors never wraps is a decision of the spec (D26; log entry 21). -/
def Obligations.StartTokenCountsABlock : Prop :=
  ∀ s : State, s.argPos = 0 →
    exec .tokenStartBlock s =
        .next { s with sectorsWritten := s.sectorsWritten + 1, writeInProgress := true } ∧
      exec (.consumeByte 0xFC) s = exec .tokenStartBlock s

/-- R222, R223: the tokens that clear a session flag, taken while no frame is open, as rows and as `consumeByte` of
their byte. -/
def Obligations.ClearingTokensClearTheirFlag : Prop :=
  ∀ s : State, s.argPos = 0 →
    exec .tokenStopTran s = .next { s with writeInProgress := false } ∧
      (s.cmd = s.cfg.sdStopTransmission →
        exec .tokenIdleFF s = .next { s with readInProgress := false }) ∧
      exec (.consumeByte 0xFD) s = exec .tokenStopTran s ∧
      exec (.consumeByte 0xFF) s = exec .tokenIdleFF s

/-- R228: every other token, taken while no frame is open, changes nothing; `0xFF` is one of them unless the last
command is the stop-transmission command. -/
def Obligations.OtherTokensAreIgnored : Prop :=
  ∀ s : State, s.argPos = 0 →
    (∀ b : Byte, b.extractLsb' 4 4 = 0xF#4 → b ≠ 0xFC#8 → b ≠ 0xFD#8 → b ≠ 0xFF#8 →
        exec (.tokenIgnored b) s = .next s ∧ exec (.consumeByte b) s = .next s) ∧
      (s.cmd ≠ s.cfg.sdStopTransmission →
        exec .tokenIdleFF s = .next s ∧ exec (.consumeByte 0xFF) s = .next s)

/-- R224: a command byte, taken while no frame is open, opens a frame; the session flags and cursors are
unchanged. -/
def Obligations.CommandByteOpensAFrame : Prop :=
  ∀ (cmd : CmdCode) (s : State), s.argPos = 0 →
    exec (.consumeByte (0b01#2 ++ cmd)) s = .next { s with arg := 0, cmd := cmd, argPos := 1 }

/-- R225: at positions 1 to 4 any byte is shifted into the argument. -/
def Obligations.ArgumentByteIsShiftedIn : Prop :=
  ∀ (b : Byte) (s : State), 1 ≤ s.argPos → s.argPos ≤ 4 →
    exec (.argByte b) s =
        .next { s with arg := s.arg.extractLsb' 0 24 ++ b, argPos := s.argPos + 1 } ∧
      exec (.consumeByte b) s = exec (.argByte b) s

/-- R226: at position 5 any byte closes the frame; `CMD` and `ARG` keep their values. -/
def Obligations.ChecksumByteClosesTheFrame : Prop :=
  ∀ (b : Byte) (s : State), s.argPos = 5 →
    exec (.crcByte b) s = .next { s with argPos := 0 } ∧
      exec (.consumeByte b) s = exec (.crcByte b) s

/-- R227: a byte that is neither token nor command byte, taken while no frame is open, is shifted into the
argument and opens a frame without a command. -/
def Obligations.StrayByteIsAccumulated : Prop :=
  ∀ (b : Byte) (s : State), s.argPos = 0 → b.extractLsb' 4 4 ≠ 0xF#4 →
    b.extractLsb' 6 2 ≠ 0b01#2 →
      exec (.strayByte b) s =
          .next { s with arg := s.arg.extractLsb' 0 24 ++ b, argPos := 1 } ∧
        exec (.consumeByte b) s = exec (.strayByte b) s

/-- R229 a, R93, R94: from position 0 a command byte and any five bytes rebuild command code and argument exactly
as transmitted and return to position 0. -/
def Obligations.SixBytesRebuildTheFrame : Prop :=
  ∀ (cmd : CmdCode) (b1 b2 b3 b4 k : Byte) (s : State), s.argPos = 0 →
    execAll [.consumeByte (0b01#2 ++ cmd), .argByte b1, .argByte b2, .argByte b3, .argByte b4,
        .crcByte k] s =
      .next { s with cmd := cmd, arg := b1 ++ b2 ++ b3 ++ b4, argPos := 0 }

/-- R220: every row that delivers a stream byte completes from every state and position, is the `consumeByte` of
its byte, and changes only the decoder's registers and the session flags: no bus event, no emission cursor. That a
TOKEN or BYTE row is the delivery of its byte at every position, also one at which the byte is something else, is the
model's reading (log entry 5, DEDUCED). -/
def Obligations.StreamRowsNeverTouchTheBus : Prop :=
  ∀ (b : Byte) (i : Instr) (s : State), StreamRow b i →
    ∃ t, exec i s = .next t ∧ exec (.consumeByte b) s = .next t ∧
      t = { s with
        argPos := t.argPos, cmd := t.cmd, arg := t.arg, readInProgress := t.readInProgress,
        writeInProgress := t.writeInProgress, sectorsWritten := t.sectorsWritten }

/-- R91, R226: with no response byte asked for, a FRAME row is the delivery of its six bytes, at every position, and
dispatches nothing; from position 0 it leaves its code and argument. That the row carries a count of response bytes, and
that it is accepted at every position, is the model's own (log entries 3, 5). -/
def Obligations.FrameRowsDeliverCodeAndArgument : Prop :=
  ∀ (cmd : CmdCode) (f : CmdArg → Byte → Byte → Instr) (arg : CmdArg) (crc : Byte) (s : State),
    FrameRow s.cfg cmd f →
      (∃ t, exec (f arg crc 0) s = .next t ∧
        execAll [.consumeByte (0b01#2 ++ cmd), .consumeByte (arg.extractLsb' 24 8),
          .consumeByte (arg.extractLsb' 16 8), .consumeByte (arg.extractLsb' 8 8),
          .consumeByte (arg.extractLsb' 0 8), .consumeByte crc] s = .next t) ∧
      (s.argPos = 0 → exec (f arg crc 0) s = .next { s with cmd := cmd, arg := arg })

/-- R241, R242: each further response byte of a FRAME row is one `produceResponseByte` of the current command,
from every state (log entry 3). -/
def Obligations.FrameRowsAnswerByTheDispatcher : Prop :=
  ∀ (cmd : CmdCode) (f : CmdArg → Byte → Byte → Instr) (arg : CmdArg) (crc n : Byte) (s : State),
    FrameRow s.cfg cmd f → n ≠ 0xFF →
      ∃ t u, exec (f arg crc n) s = .next t ∧ exec (.produceResponseByte t.cmd) t = .next u ∧
        exec (f arg crc (n + 1)) s = .next u

/-- R243: GO_IDLE_STATE runs `initialize(PREFER_LBA)` and answers from the normal entry when the result is
`LBA`, from the error variant otherwise. -/
def Obligations.GoIdleInitializesThenAnswers : Prop :=
  ∀ s : State, s.Inv → s.cmd = s.cfg.sdGoIdle →
    ∃ u m e b k, exec (.initializeDrive s.cfg.preferLba) s = .next u ∧
      u.results = .mode m :: s.results ∧ e = (if m = .lba then .idle else .idleErr) ∧
      Emits e u b k ∧
      exec (.produceResponseByte s.cmd) s = .next (answered e b k { u with results := s.results })

/-- R244, R245, R248, R249, R250: the commands with a fixed response answer from their own entry and change nothing
but its cursor. -/
def Obligations.FixedResponsesComeFromTheirEntry : Prop :=
  ∀ (s : State) (code : CmdCode) (e : Entry), s.Inv → s.cmd = code →
    (code, e) ∈ [(s.cfg.sdSendIfCond, Entry.ifCond), (s.cfg.sdStopTransmission, Entry.stop),
      (s.cfg.sdAppCmd, Entry.appCmd), (s.cfg.sdSendOpCond, Entry.opCond),
      (s.cfg.sdReadOcr, Entry.ocr)] →
      ∃ b k, Emits e s b k ∧ exec (.produceResponseByte code) s = .next (answered e b k s)

/-- R246: READ_MULTIPLE_BLOCK answers from the shorter entry while a read session is in progress, from the first
entry otherwise. -/
def Obligations.ReadResponseDependsOnTheSession : Prop :=
  ∀ s : State, s.Inv → s.cmd = s.cfg.sdReadMultiple →
    ∃ e b k, e = (if s.readInProgress then .readNext else .readFirst) ∧ Emits e s b k ∧
      exec (.produceResponseByte s.cmd) s = .next (answered e b k s)

/-- R247: WRITE_MULTIPLE_BLOCK answers by the session: mid-write, nothing written, one sector, more; the last byte
of a closing response resets the count. -/
def Obligations.WriteResponseDependsOnTheSession : Prop :=
  ∀ s : State, s.Inv → s.cmd = s.cfg.sdWriteMultiple →
    ∃ e b k, Emits e s b k ∧
      e = (if s.writeInProgress then .wrNext else if s.sectorsWritten = 0 then .wrStart
        else if s.sectorsWritten = 1 then .wrEnd1 else .wrEndN) ∧
      exec (.produceResponseByte s.cmd) s =
        .next { answered e b k s with
          sectorsWritten :=
            if (e = .wrEnd1 ∨ e = .wrEndN) ∧ k = 0 then 0 else s.sectorsWritten }

/-- R251: any other code is logged with the argument and answered with a null byte; nothing else changes. -/
def Obligations.UnrecognizedCommandAnswersNull : Prop :=
  ∀ s : State, s.cmd ∉ s.cfg.sdCodes →
    exec (.produceResponseByte s.cmd) s =
      .next { s with
        log := ⟨.warning, .unknownCommand s.cmd s.arg⟩ :: s.log
        results := .byte 0x00 :: s.results }

/-- R240, R108: a fixed response read from its start gives exactly its payload bytes in order, and leaves its cursor
at 0 again. -/
def Obligations.WholeResponseIsThePayload : Prop :=
  ∀ (s : State) (code : CmdCode) (e : Entry) (l : Byte) (payload : List Byte), s.Inv →
    s.cmd = code →
    (code, e) ∈ [(s.cfg.sdSendIfCond, Entry.ifCond), (s.cfg.sdStopTransmission, Entry.stop),
      (s.cfg.sdAppCmd, Entry.appCmd), (s.cfg.sdSendOpCond, Entry.opCond),
      (s.cfg.sdReadOcr, Entry.ocr)] →
    s.cfg.resp.get e = l :: payload → s.count.get e = 0 →
      execAll (List.replicate l.toNat (.produceResponseByte code)) s =
        .next { s with results := (payload.map Ret.byte).reverse ++ s.results }

/-- R256: `sendBlock` is `writeMultiple` at the frame's argument; `length` is not forwarded. -/
def Obligations.SendBlockWritesAtTheArgument : Prop :=
  ∀ (buf : Buffer) (len : BitVec 16) (s : State), 512 ≤ buf.cap.toNat →
    ∃ t, exec (.writeMultiple s.arg buf) s = .next t ∧ exec (.sendBlock buf len) s = .next t

/-- R257: `receiveBlock` sets `READ_IN_PROGRESS` and is `readMultiple` at the frame's argument; `length` is not
forwarded, and the flag stays set whether or not the transfer succeeds. -/
def Obligations.ReceiveBlockReadsAtTheArgument : Prop :=
  ∀ (buf : Buffer) (len : BitVec 16) (s : State), 512 ≤ buf.cap.toNat →
    ∃ t, exec (.readMultiple s.arg buf) { s with readInProgress := true } = .next t ∧
      exec (.receiveBlock buf len) s = .next t ∧ t.readInProgress = true

/-- R255 (and vector S6): start token, one block, stop token, and the closing response read to its end leave
`SECTORS_WRITTEN = 0`, `WRITE_IN_PROGRESS = false` and every cursor as it was. That the response has as many bytes as its
length byte says, and that its cursor is then back at its start, are decisions of the spec (D8, D9; log entries
12, 27). -/
def Obligations.OneBlockWriteSessionCloses : Prop :=
  ∀ (s : State) (buf : Buffer) (len : BitVec 16), s.Inv → 512 ≤ buf.cap.toNat → s.argPos = 0 →
    s.cmd = s.cfg.sdWriteMultiple → s.sectorsWritten = 0 → s.count.get .wrEnd1 = 0 →
      ∃ t, execAll ([.tokenStartBlock, .sendBlock buf len, .tokenStopTran] ++
          List.replicate (s.cfg.respLen .wrEnd1) (.produceResponseByte s.cmd)) s = .next t ∧
        t.sectorsWritten = 0 ∧ t.writeInProgress = false ∧ t.count = s.count

/-- R223, R245, R254: a stop-transmission frame leaves the read session in progress, its response too; the first
idle byte after it ends the session. -/
def Obligations.ReadSessionEndsAtTheIdleByte : Prop :=
  ∀ (arg : CmdArg) (crc : Byte) (s : State), s.cfg.Wf → s.argPos = 0 → s.readInProgress = true →
    ∃ t u, exec (.stopTransmission arg crc 0) s = .next t ∧ t.readInProgress = true ∧
      exec (.produceResponseByte t.cmd) t = .next u ∧ u.readInProgress = true ∧
      exec .tokenIdleFF u = .next { u with readInProgress := false }

/-- A step takes the next item off the host port, and when the decoder reads an instruction from it, runs exactly
that instruction on the state without the item (R5, R12; log entry 1). -/
def Obligations.StepRunsTheDecodedInstruction : Prop :=
  ∀ (s : State) (it : HostItem) (rest : List HostItem) (i : Instr), s.hostIn = it :: rest →
    decode s.cfg s.argPos it = .ok i → step s = exec i { s with hostIn := rest }

/-- A step with nothing pending leaves the state as it is (R27); an item that is no instruction is refused
(R112; log entry 1). -/
def Obligations.StepWithoutAnInstruction : Prop :=
  ∀ s : State, (s.hostIn = [] → step s = .next s) ∧
    ∀ it rest why, s.hostIn = it :: rest → decode s.cfg s.argPos it = .error why →
      step s = .refused (.undecodable why)

/-- R91 to R96, R104, R112, words written out from the spec: they decode to the instructions they stand for. The model's
own part in it: the 8-bit words `0x91` and `0b01xxx` are rows of ATACMD and PORT by the order in which it tries the
formats (log entry 33, DESIGN CHOICE), the operand of `readRegister` is a byte of zeros (log entry 2, DESIGN CHOICE), the
frames ask for no response byte (log entry 3, DEDUCED), and the codes are the presumed ones (log entries 10, 11). With
its operand left out, `initialize` takes `preferLba = true` (R170) and `waitForStatus` the mask `0x00` (R154). -/
def Obligations.WordsOfTheTableDecode : Prop :=
  decodeTableWord 48 0x400000000095 = some (.goIdleState 0 0x95 0) ∧
    decodeTableWord 48 0x520000006401 = some (.readMultipleBlock 0x64 0x01 0) ∧
    decodeTableWord 48 0x5100000000FF = some (.unrecognizedCommand 17 0 0xFF 0) ∧
    decodeTableWord 8 0xFC = some .tokenStartBlock ∧ decodeTableWord 8 0xFE = some (.tokenIgnored 0xFE) ∧
    decodeTableWord 8 0x91 = some .ataInitDeviceParams ∧
    decodeTableWord 8 0b01000 = some (.readRegister 0) ∧
    decodeTableWord 8 0b01011 = some (.initializeDrive true) ∧
    decodeTableWord 8 0b01010 = some (.waitForStatus 0x00) ∧
    decode Config.default 2 ⟨.stream, [0xFC]⟩ = .ok (.argByte 0xFC) ∧
    decode Config.default 5 ⟨.stream, [0xFF]⟩ = .ok (.crcByte 0xFF) ∧
    decode Config.default 0 ⟨.stream, [0x80]⟩ = .ok (.strayByte 0x80)

/-- Decode and encode agree: under every well-formed configuration, at every position at which its row applies,
every well-formed instruction is read back from its item with every operand (R91 to R96, R104, R112). Of the bytes, the
operands of PORT rows (log entry 2), the count of response bytes of FRAME rows (log entry 3) and the buffer descriptor
with its widths (log entries 17, 38) are the model's own coding. -/
def Obligations.DecodeOfEncodeIsTheInstruction : Prop :=
  ∀ (c : Config) (pos : Nat) (i : Instr), c.Wf → i.wf c = true → i.atPosition pos = true →
    decode c pos (encode c i) = .ok i

/-- R46 d, e, the canonical form of host memory and the constancy of the configuration: every step, of every
instruction, keeps the invariant. -/
def Obligations.EveryStepKeepsTheInvariant : Prop :=
  ∀ s t : State, s.Inv → step s = .next t → t.Inv

/-- R46 a, b: every instruction but the primitives of the Bus Signal Layer leaves no strobe asserted, and so the
read strobe never asserted against an output bus. -/
def Obligations.CompositeOperationsLeaveTheStrobesIdle : Prop :=
  ∀ (i : Instr) (s t : State), isPrimitive i = false → s.StrobesIdle → exec i s = .next t →
    t.StrobesIdle ∧ ¬ t.BusContention
end

