-- ==== Sys2Proof/Laws/State.lean ====
section
/-! SUPPORT. What each named update does to each field of State, true by definition. -/

namespace Sys2Proof.Machine

open Sys2Proof

variable (s : State)

@[simp] theorem pushEvent_rdState (e : BusEvent) : (pushEvent e s).rdState = s.rdState := rfl
@[simp] theorem pushEvent_wrState (e : BusEvent) : (pushEvent e s).wrState = s.wrState := rfl
@[simp] theorem pushEvent_dir (e : BusEvent) : (pushEvent e s).dir = s.dir := rfl
@[simp] theorem pushEvent_dout (e : BusEvent) : (pushEvent e s).dout = s.dout := rfl
@[simp] theorem pushEvent_doutWritten (e : BusEvent) : (pushEvent e s).doutWritten = s.doutWritten := rfl
@[simp] theorem pushEvent_addr (e : BusEvent) : (pushEvent e s).addr = s.addr := rfl
@[simp] theorem pushEvent_addrWritten (e : BusEvent) : (pushEvent e s).addrWritten = s.addrWritten := rfl
@[simp] theorem pushEvent_mode (e : BusEvent) : (pushEvent e s).mode = s.mode := rfl
@[simp] theorem pushEvent_busResolved (e : BusEvent) : (pushEvent e s).busResolved = s.busResolved := rfl
@[simp] theorem pushEvent_rcur (e : BusEvent) : (pushEvent e s).rcur = s.rcur := rfl
@[simp] theorem pushEvent_wcur (e : BusEvent) : (pushEvent e s).wcur = s.wcur := rfl
@[simp] theorem pushEvent_argPos (e : BusEvent) : (pushEvent e s).argPos = s.argPos := rfl
@[simp] theorem pushEvent_cmd (e : BusEvent) : (pushEvent e s).cmd = s.cmd := rfl
@[simp] theorem pushEvent_arg (e : BusEvent) : (pushEvent e s).arg = s.arg := rfl
@[simp] theorem pushEvent_readInProgress (e : BusEvent) : (pushEvent e s).readInProgress = s.readInProgress := rfl
@[simp] theorem pushEvent_writeInProgress (e : BusEvent) : (pushEvent e s).writeInProgress = s.writeInProgress := rfl
@[simp] theorem pushEvent_sectorsWritten (e : BusEvent) : (pushEvent e s).sectorsWritten = s.sectorsWritten := rfl
@[simp] theorem pushEvent_count (e : BusEvent) : (pushEvent e s).count = s.count := rfl
@[simp] theorem pushEvent_cfg (e : BusEvent) : (pushEvent e s).cfg = s.cfg := rfl
@[simp] theorem pushEvent_hostMem (e : BusEvent) : (pushEvent e s).hostMem = s.hostMem := rfl
@[simp] theorem pushEvent_hostIn (e : BusEvent) : (pushEvent e s).hostIn = s.hostIn := rfl
@[simp] theorem pushEvent_results (e : BusEvent) : (pushEvent e s).results = s.results := rfl
@[simp] theorem pushEvent_driveIn (e : BusEvent) : (pushEvent e s).driveIn = s.driveIn := rfl
@[simp] theorem pushEvent_events (e : BusEvent) : (pushEvent e s).events = e :: s.events := rfl
@[simp] theorem pushEvent_log (e : BusEvent) : (pushEvent e s).log = s.log := rfl

@[simp] theorem logEvent_rdState (sev : Severity) (k : LogKind) : (logEvent sev k s).rdState = s.rdState := rfl
@[simp] theorem logEvent_wrState (sev : Severity) (k : LogKind) : (logEvent sev k s).wrState = s.wrState := rfl
@[simp] theorem logEvent_dir (sev : Severity) (k : LogKind) : (logEvent sev k s).dir = s.dir := rfl
@[simp] theorem logEvent_dout (sev : Severity) (k : LogKind) : (logEvent sev k s).dout = s.dout := rfl
@[simp] theorem logEvent_doutWritten (sev : Severity) (k : LogKind) : (logEvent sev k s).doutWritten = s.doutWritten := rfl
@[simp] theorem logEvent_addr (sev : Severity) (k : LogKind) : (logEvent sev k s).addr = s.addr := rfl
@[simp] theorem logEvent_addrWritten (sev : Severity) (k : LogKind) : (logEvent sev k s).addrWritten = s.addrWritten := rfl
@[simp] theorem logEvent_mode (sev : Severity) (k : LogKind) : (logEvent sev k s).mode = s.mode := rfl
@[simp] theorem logEvent_busResolved (sev : Severity) (k : LogKind) : (logEvent sev k s).busResolved = s.busResolved := rfl
@[simp] theorem logEvent_rcur (sev : Severity) (k : LogKind) : (logEvent sev k s).rcur = s.rcur := rfl
@[simp] theorem logEvent_wcur (sev : Severity) (k : LogKind) : (logEvent sev k s).wcur = s.wcur := rfl
@[simp] theorem logEvent_argPos (sev : Severity) (k : LogKind) : (logEvent sev k s).argPos = s.argPos := rfl
@[simp] theorem logEvent_cmd (sev : Severity) (k : LogKind) : (logEvent sev k s).cmd = s.cmd := rfl
@[simp] theorem logEvent_arg (sev : Severity) (k : LogKind) : (logEvent sev k s).arg = s.arg := rfl
@[simp] theorem logEvent_readInProgress (sev : Severity) (k : LogKind) : (logEvent sev k s).readInProgress = s.readInProgress := rfl
@[simp] theorem logEvent_writeInProgress (sev : Severity) (k : LogKind) : (logEvent sev k s).writeInProgress = s.writeInProgress := rfl
@[simp] theorem logEvent_sectorsWritten (sev : Severity) (k : LogKind) : (logEvent sev k s).sectorsWritten = s.sectorsWritten := rfl
@[simp] theorem logEvent_count (sev : Severity) (k : LogKind) : (logEvent sev k s).count = s.count := rfl
@[simp] theorem logEvent_cfg (sev : Severity) (k : LogKind) : (logEvent sev k s).cfg = s.cfg := rfl
@[simp] theorem logEvent_hostMem (sev : Severity) (k : LogKind) : (logEvent sev k s).hostMem = s.hostMem := rfl
@[simp] theorem logEvent_hostIn (sev : Severity) (k : LogKind) : (logEvent sev k s).hostIn = s.hostIn := rfl
@[simp] theorem logEvent_results (sev : Severity) (k : LogKind) : (logEvent sev k s).results = s.results := rfl
@[simp] theorem logEvent_driveIn (sev : Severity) (k : LogKind) : (logEvent sev k s).driveIn = s.driveIn := rfl
@[simp] theorem logEvent_events (sev : Severity) (k : LogKind) : (logEvent sev k s).events = s.events := rfl
@[simp] theorem logEvent_log (sev : Severity) (k : LogKind) : (logEvent sev k s).log = ⟨sev, k⟩ :: s.log := rfl

@[simp] theorem reportError_rdState (sev : Severity) (k : LogKind) : (reportError sev k s).rdState = s.rdState := rfl
@[simp] theorem reportError_wrState (sev : Severity) (k : LogKind) : (reportError sev k s).wrState = s.wrState := rfl
@[simp] theorem reportError_dir (sev : Severity) (k : LogKind) : (reportError sev k s).dir = s.dir := rfl
@[simp] theorem reportError_dout (sev : Severity) (k : LogKind) : (reportError sev k s).dout = s.dout := rfl
@[simp] theorem reportError_doutWritten (sev : Severity) (k : LogKind) : (reportError sev k s).doutWritten = s.doutWritten := rfl
@[simp] theorem reportError_addr (sev : Severity) (k : LogKind) : (reportError sev k s).addr = s.addr := rfl
@[simp] theorem reportError_addrWritten (sev : Severity) (k : LogKind) : (reportError sev k s).addrWritten = s.addrWritten := rfl
@[simp] theorem reportError_mode (sev : Severity) (k : LogKind) : (reportError sev k s).mode = s.mode := rfl
@[simp] theorem reportError_busResolved (sev : Severity) (k : LogKind) : (reportError sev k s).busResolved = s.busResolved := rfl
@[simp] theorem reportError_rcur (sev : Severity) (k : LogKind) : (reportError sev k s).rcur = s.rcur := rfl
@[simp] theorem reportError_wcur (sev : Severity) (k : LogKind) : (reportError sev k s).wcur = s.wcur := rfl
@[simp] theorem reportError_argPos (sev : Severity) (k : LogKind) : (reportError sev k s).argPos = s.argPos := rfl
@[simp] theorem reportError_cmd (sev : Severity) (k : LogKind) : (reportError sev k s).cmd = s.cmd := rfl
@[simp] theorem reportError_arg (sev : Severity) (k : LogKind) : (reportError sev k s).arg = s.arg := rfl
@[simp] theorem reportError_readInProgress (sev : Severity) (k : LogKind) : (reportError sev k s).readInProgress = s.readInProgress := rfl
@[simp] theorem reportError_writeInProgress (sev : Severity) (k : LogKind) : (reportError sev k s).writeInProgress = s.writeInProgress := rfl
@[simp] theorem reportError_sectorsWritten (sev : Severity) (k : LogKind) : (reportError sev k s).sectorsWritten = s.sectorsWritten := rfl
@[simp] theorem reportError_count (sev : Severity) (k : LogKind) : (reportError sev k s).count = s.count := rfl
@[simp] theorem reportError_cfg (sev : Severity) (k : LogKind) : (reportError sev k s).cfg = s.cfg := rfl
@[simp] theorem reportError_hostMem (sev : Severity) (k : LogKind) : (reportError sev k s).hostMem = s.hostMem := rfl
@[simp] theorem reportError_hostIn (sev : Severity) (k : LogKind) : (reportError sev k s).hostIn = s.hostIn := rfl
@[simp] theorem reportError_results (sev : Severity) (k : LogKind) : (reportError sev k s).results = s.results := rfl
@[simp] theorem reportError_driveIn (sev : Severity) (k : LogKind) : (reportError sev k s).driveIn = s.driveIn := rfl
@[simp] theorem reportError_events (sev : Severity) (k : LogKind) : (reportError sev k s).events = s.events := rfl
@[simp] theorem reportError_log (sev : Severity) (k : LogKind) : (reportError sev k s).log = ⟨sev, k⟩ :: s.log := rfl

@[simp] theorem returns_rdState (r : Ret) : (returns r s).rdState = s.rdState := rfl
@[simp] theorem returns_wrState (r : Ret) : (returns r s).wrState = s.wrState := rfl
@[simp] theorem returns_dir (r : Ret) : (returns r s).dir = s.dir := rfl
@[simp] theorem returns_dout (r : Ret) : (returns r s).dout = s.dout := rfl
@[simp] theorem returns_doutWritten (r : Ret) : (returns r s).doutWritten = s.doutWritten := rfl
@[simp] theorem returns_addr (r : Ret) : (returns r s).addr = s.addr := rfl
@[simp] theorem returns_addrWritten (r : Ret) : (returns r s).addrWritten = s.addrWritten := rfl
@[simp] theorem returns_mode (r : Ret) : (returns r s).mode = s.mode := rfl
@[simp] theorem returns_busResolved (r : Ret) : (returns r s).busResolved = s.busResolved := rfl
@[simp] theorem returns_rcur (r : Ret) : (returns r s).rcur = s.rcur := rfl
@[simp] theorem returns_wcur (r : Ret) : (returns r s).wcur = s.wcur := rfl
@[simp] theorem returns_argPos (r : Ret) : (returns r s).argPos = s.argPos := rfl
@[simp] theorem returns_cmd (r : Ret) : (returns r s).cmd = s.cmd := rfl
@[simp] theorem returns_arg (r : Ret) : (returns r s).arg = s.arg := rfl
@[simp] theorem returns_readInProgress (r : Ret) : (returns r s).readInProgress = s.readInProgress := rfl
@[simp] theorem returns_writeInProgress (r : Ret) : (returns r s).writeInProgress = s.writeInProgress := rfl
@[simp] theorem returns_sectorsWritten (r : Ret) : (returns r s).sectorsWritten = s.sectorsWritten := rfl
@[simp] theorem returns_count (r : Ret) : (returns r s).count = s.count := rfl
@[simp] theorem returns_cfg (r : Ret) : (returns r s).cfg = s.cfg := rfl
@[simp] theorem returns_hostMem (r : Ret) : (returns r s).hostMem = s.hostMem := rfl
@[simp] theorem returns_hostIn (r : Ret) : (returns r s).hostIn = s.hostIn := rfl
@[simp] theorem returns_results (r : Ret) : (returns r s).results = r :: s.results := rfl
@[simp] theorem returns_driveIn (r : Ret) : (returns r s).driveIn = s.driveIn := rfl
@[simp] theorem returns_events (r : Ret) : (returns r s).events = s.events := rfl
@[simp] theorem returns_log (r : Ret) : (returns r s).log = s.log := rfl

@[simp] theorem storeByte_rdState (a : Nat) (v : Byte) : (storeByte a v s).rdState = s.rdState := rfl
@[simp] theorem storeByte_wrState (a : Nat) (v : Byte) : (storeByte a v s).wrState = s.wrState := rfl
@[simp] theorem storeByte_dir (a : Nat) (v : Byte) : (storeByte a v s).dir = s.dir := rfl
@[simp] theorem storeByte_dout (a : Nat) (v : Byte) : (storeByte a v s).dout = s.dout := rfl
@[simp] theorem storeByte_doutWritten (a : Nat) (v : Byte) : (storeByte a v s).doutWritten = s.doutWritten := rfl
@[simp] theorem storeByte_addr (a : Nat) (v : Byte) : (storeByte a v s).addr = s.addr := rfl
@[simp] theorem storeByte_addrWritten (a : Nat) (v : Byte) : (storeByte a v s).addrWritten = s.addrWritten := rfl
@[simp] theorem storeByte_mode (a : Nat) (v : Byte) : (storeByte a v s).mode = s.mode := rfl
@[simp] theorem storeByte_busResolved (a : Nat) (v : Byte) : (storeByte a v s).busResolved = s.busResolved := rfl
@[simp] theorem storeByte_rcur (a : Nat) (v : Byte) : (storeByte a v s).rcur = s.rcur := rfl
@[simp] theorem storeByte_wcur (a : Nat) (v : Byte) : (storeByte a v s).wcur = s.wcur := rfl
@[simp] theorem storeByte_argPos (a : Nat) (v : Byte) : (storeByte a v s).argPos = s.argPos := rfl
@[simp] theorem storeByte_cmd (a : Nat) (v : Byte) : (storeByte a v s).cmd = s.cmd := rfl
@[simp] theorem storeByte_arg (a : Nat) (v : Byte) : (storeByte a v s).arg = s.arg := rfl
@[simp] theorem storeByte_readInProgress (a : Nat) (v : Byte) : (storeByte a v s).readInProgress = s.readInProgress := rfl
@[simp] theorem storeByte_writeInProgress (a : Nat) (v : Byte) : (storeByte a v s).writeInProgress = s.writeInProgress := rfl
@[simp] theorem storeByte_sectorsWritten (a : Nat) (v : Byte) : (storeByte a v s).sectorsWritten = s.sectorsWritten := rfl
@[simp] theorem storeByte_count (a : Nat) (v : Byte) : (storeByte a v s).count = s.count := rfl
@[simp] theorem storeByte_cfg (a : Nat) (v : Byte) : (storeByte a v s).cfg = s.cfg := rfl
@[simp] theorem storeByte_hostMem (a : Nat) (v : Byte) : (storeByte a v s).hostMem = s.hostMem.write a v := rfl
@[simp] theorem storeByte_hostIn (a : Nat) (v : Byte) : (storeByte a v s).hostIn = s.hostIn := rfl
@[simp] theorem storeByte_results (a : Nat) (v : Byte) : (storeByte a v s).results = s.results := rfl
@[simp] theorem storeByte_driveIn (a : Nat) (v : Byte) : (storeByte a v s).driveIn = s.driveIn := rfl
@[simp] theorem storeByte_events (a : Nat) (v : Byte) : (storeByte a v s).events = s.events := rfl
@[simp] theorem storeByte_log (a : Nat) (v : Byte) : (storeByte a v s).log = s.log := rfl

@[simp] theorem turnBus_rdState (d : Direction) : (turnBus d s).rdState = s.rdState := rfl
@[simp] theorem turnBus_wrState (d : Direction) : (turnBus d s).wrState = s.wrState := rfl
@[simp] theorem turnBus_dir (d : Direction) : (turnBus d s).dir = d := rfl
@[simp] theorem turnBus_dout (d : Direction) : (turnBus d s).dout = s.dout := rfl
@[simp] theorem turnBus_doutWritten (d : Direction) : (turnBus d s).doutWritten = s.doutWritten := rfl
@[simp] theorem turnBus_addr (d : Direction) : (turnBus d s).addr = s.addr := rfl
@[simp] theorem turnBus_addrWritten (d : Direction) : (turnBus d s).addrWritten = s.addrWritten := rfl
@[simp] theorem turnBus_mode (d : Direction) : (turnBus d s).mode = s.mode := rfl
@[simp] theorem turnBus_busResolved (d : Direction) : (turnBus d s).busResolved = s.busResolved := rfl
@[simp] theorem turnBus_rcur (d : Direction) : (turnBus d s).rcur = s.rcur := rfl
@[simp] theorem turnBus_wcur (d : Direction) : (turnBus d s).wcur = s.wcur := rfl
@[simp] theorem turnBus_argPos (d : Direction) : (turnBus d s).argPos = s.argPos := rfl
@[simp] theorem turnBus_cmd (d : Direction) : (turnBus d s).cmd = s.cmd := rfl
@[simp] theorem turnBus_arg (d : Direction) : (turnBus d s).arg = s.arg := rfl
@[simp] theorem turnBus_readInProgress (d : Direction) : (turnBus d s).readInProgress = s.readInProgress := rfl
@[simp] theorem turnBus_writeInProgress (d : Direction) : (turnBus d s).writeInProgress = s.writeInProgress := rfl
@[simp] theorem turnBus_sectorsWritten (d : Direction) : (turnBus d s).sectorsWritten = s.sectorsWritten := rfl
@[simp] theorem turnBus_count (d : Direction) : (turnBus d s).count = s.count := rfl
@[simp] theorem turnBus_cfg (d : Direction) : (turnBus d s).cfg = s.cfg := rfl
@[simp] theorem turnBus_hostMem (d : Direction) : (turnBus d s).hostMem = s.hostMem := rfl
@[simp] theorem turnBus_hostIn (d : Direction) : (turnBus d s).hostIn = s.hostIn := rfl
@[simp] theorem turnBus_results (d : Direction) : (turnBus d s).results = s.results := rfl
@[simp] theorem turnBus_driveIn (d : Direction) : (turnBus d s).driveIn = s.driveIn := rfl
@[simp] theorem turnBus_events (d : Direction) : (turnBus d s).events = .direction d :: s.events := rfl
@[simp] theorem turnBus_log (d : Direction) : (turnBus d s).log = s.log := rfl

@[simp] theorem loadData_rdState (v : Byte) : (loadData v s).rdState = s.rdState := rfl
@[simp] theorem loadData_wrState (v : Byte) : (loadData v s).wrState = s.wrState := rfl
@[simp] theorem loadData_dir (v : Byte) : (loadData v s).dir = s.dir := rfl
@[simp] theorem loadData_dout (v : Byte) : (loadData v s).dout = v := rfl
@[simp] theorem loadData_doutWritten (v : Byte) : (loadData v s).doutWritten = true := rfl
@[simp] theorem loadData_addr (v : Byte) : (loadData v s).addr = s.addr := rfl
@[simp] theorem loadData_addrWritten (v : Byte) : (loadData v s).addrWritten = s.addrWritten := rfl
@[simp] theorem loadData_mode (v : Byte) : (loadData v s).mode = s.mode := rfl
@[simp] theorem loadData_busResolved (v : Byte) : (loadData v s).busResolved = s.busResolved := rfl
@[simp] theorem loadData_rcur (v : Byte) : (loadData v s).rcur = s.rcur := rfl
@[simp] theorem loadData_wcur (v : Byte) : (loadData v s).wcur = s.wcur := rfl
@[simp] theorem loadData_argPos (v : Byte) : (loadData v s).argPos = s.argPos := rfl
@[simp] theorem loadData_cmd (v : Byte) : (loadData v s).cmd = s.cmd := rfl
@[simp] theorem loadData_arg (v : Byte) : (loadData v s).arg = s.arg := rfl
@[simp] theorem loadData_readInProgress (v : Byte) : (loadData v s).readInProgress = s.readInProgress := rfl
@[simp] theorem loadData_writeInProgress (v : Byte) : (loadData v s).writeInProgress = s.writeInProgress := rfl
@[simp] theorem loadData_sectorsWritten (v : Byte) : (loadData v s).sectorsWritten = s.sectorsWritten := rfl
@[simp] theorem loadData_count (v : Byte) : (loadData v s).count = s.count := rfl
@[simp] theorem loadData_cfg (v : Byte) : (loadData v s).cfg = s.cfg := rfl
@[simp] theorem loadData_hostMem (v : Byte) : (loadData v s).hostMem = s.hostMem := rfl
@[simp] theorem loadData_hostIn (v : Byte) : (loadData v s).hostIn = s.hostIn := rfl
@[simp] theorem loadData_results (v : Byte) : (loadData v s).results = s.results := rfl
@[simp] theorem loadData_driveIn (v : Byte) : (loadData v s).driveIn = s.driveIn := rfl
@[simp] theorem loadData_events (v : Byte) : (loadData v s).events = .load v :: s.events := rfl
@[simp] theorem loadData_log (v : Byte) : (loadData v s).log = s.log := rfl

@[simp] theorem loadAddress_rdState (a : RegAddr) : (loadAddress a s).rdState = s.rdState := rfl
@[simp] theorem loadAddress_wrState (a : RegAddr) : (loadAddress a s).wrState = s.wrState := rfl
@[simp] theorem loadAddress_dir (a : RegAddr) : (loadAddress a s).dir = s.dir := rfl
@[simp] theorem loadAddress_dout (a : RegAddr) : (loadAddress a s).dout = s.dout := rfl
@[simp] theorem loadAddress_doutWritten (a : RegAddr) : (loadAddress a s).doutWritten = s.doutWritten := rfl
@[simp] theorem loadAddress_addr (a : RegAddr) : (loadAddress a s).addr = a := rfl
@[simp] theorem loadAddress_addrWritten (a : RegAddr) : (loadAddress a s).addrWritten = true := rfl
@[simp] theorem loadAddress_mode (a : RegAddr) : (loadAddress a s).mode = s.mode := rfl
@[simp] theorem loadAddress_busResolved (a : RegAddr) : (loadAddress a s).busResolved = s.busResolved := rfl
@[simp] theorem loadAddress_rcur (a : RegAddr) : (loadAddress a s).rcur = s.rcur := rfl
@[simp] theorem loadAddress_wcur (a : RegAddr) : (loadAddress a s).wcur = s.wcur := rfl
@[simp] theorem loadAddress_argPos (a : RegAddr) : (loadAddress a s).argPos = s.argPos := rfl
@[simp] theorem loadAddress_cmd (a : RegAddr) : (loadAddress a s).cmd = s.cmd := rfl
@[simp] theorem loadAddress_arg (a : RegAddr) : (loadAddress a s).arg = s.arg := rfl
@[simp] theorem loadAddress_readInProgress (a : RegAddr) : (loadAddress a s).readInProgress = s.readInProgress := rfl
@[simp] theorem loadAddress_writeInProgress (a : RegAddr) : (loadAddress a s).writeInProgress = s.writeInProgress := rfl
@[simp] theorem loadAddress_sectorsWritten (a : RegAddr) : (loadAddress a s).sectorsWritten = s.sectorsWritten := rfl
@[simp] theorem loadAddress_count (a : RegAddr) : (loadAddress a s).count = s.count := rfl
@[simp] theorem loadAddress_cfg (a : RegAddr) : (loadAddress a s).cfg = s.cfg := rfl
@[simp] theorem loadAddress_hostMem (a : RegAddr) : (loadAddress a s).hostMem = s.hostMem := rfl
@[simp] theorem loadAddress_hostIn (a : RegAddr) : (loadAddress a s).hostIn = s.hostIn := rfl
@[simp] theorem loadAddress_results (a : RegAddr) : (loadAddress a s).results = s.results := rfl
@[simp] theorem loadAddress_driveIn (a : RegAddr) : (loadAddress a s).driveIn = s.driveIn := rfl
@[simp] theorem loadAddress_events (a : RegAddr) : (loadAddress a s).events = .address a :: s.events := rfl
@[simp] theorem loadAddress_log (a : RegAddr) : (loadAddress a s).log = s.log := rfl

@[simp] theorem startBlock_rdState : (startBlock s).rdState = s.rdState := rfl
@[simp] theorem startBlock_wrState : (startBlock s).wrState = s.wrState := rfl
@[simp] theorem startBlock_dir : (startBlock s).dir = s.dir := rfl
@[simp] theorem startBlock_dout : (startBlock s).dout = s.dout := rfl
@[simp] theorem startBlock_doutWritten : (startBlock s).doutWritten = s.doutWritten := rfl
@[simp] theorem startBlock_addr : (startBlock s).addr = s.addr := rfl
@[simp] theorem startBlock_addrWritten : (startBlock s).addrWritten = s.addrWritten := rfl
@[simp] theorem startBlock_mode : (startBlock s).mode = s.mode := rfl
@[simp] theorem startBlock_busResolved : (startBlock s).busResolved = s.busResolved := rfl
@[simp] theorem startBlock_rcur : (startBlock s).rcur = s.rcur := rfl
@[simp] theorem startBlock_wcur : (startBlock s).wcur = s.wcur := rfl
@[simp] theorem startBlock_argPos : (startBlock s).argPos = s.argPos := rfl
@[simp] theorem startBlock_cmd : (startBlock s).cmd = s.cmd := rfl
@[simp] theorem startBlock_arg : (startBlock s).arg = s.arg := rfl
@[simp] theorem startBlock_readInProgress : (startBlock s).readInProgress = s.readInProgress := rfl
@[simp] theorem startBlock_writeInProgress : (startBlock s).writeInProgress = true := rfl
@[simp] theorem startBlock_sectorsWritten : (startBlock s).sectorsWritten = s.sectorsWritten + 1 := rfl
@[simp] theorem startBlock_count : (startBlock s).count = s.count := rfl
@[simp] theorem startBlock_cfg : (startBlock s).cfg = s.cfg := rfl
@[simp] theorem startBlock_hostMem : (startBlock s).hostMem = s.hostMem := rfl
@[simp] theorem startBlock_hostIn : (startBlock s).hostIn = s.hostIn := rfl
@[simp] theorem startBlock_results : (startBlock s).results = s.results := rfl
@[simp] theorem startBlock_driveIn : (startBlock s).driveIn = s.driveIn := rfl
@[simp] theorem startBlock_events : (startBlock s).events = s.events := rfl
@[simp] theorem startBlock_log : (startBlock s).log = s.log := rfl

@[simp] theorem stopTran_rdState : (stopTran s).rdState = s.rdState := rfl
@[simp] theorem stopTran_wrState : (stopTran s).wrState = s.wrState := rfl
@[simp] theorem stopTran_dir : (stopTran s).dir = s.dir := rfl
@[simp] theorem stopTran_dout : (stopTran s).dout = s.dout := rfl
@[simp] theorem stopTran_doutWritten : (stopTran s).doutWritten = s.doutWritten := rfl
@[simp] theorem stopTran_addr : (stopTran s).addr = s.addr := rfl
@[simp] theorem stopTran_addrWritten : (stopTran s).addrWritten = s.addrWritten := rfl
@[simp] theorem stopTran_mode : (stopTran s).mode = s.mode := rfl
@[simp] theorem stopTran_busResolved : (stopTran s).busResolved = s.busResolved := rfl
@[simp] theorem stopTran_rcur : (stopTran s).rcur = s.rcur := rfl
@[simp] theorem stopTran_wcur : (stopTran s).wcur = s.wcur := rfl
@[simp] theorem stopTran_argPos : (stopTran s).argPos = s.argPos := rfl
@[simp] theorem stopTran_cmd : (stopTran s).cmd = s.cmd := rfl
@[simp] theorem stopTran_arg : (stopTran s).arg = s.arg := rfl
@[simp] theorem stopTran_readInProgress : (stopTran s).readInProgress = s.readInProgress := rfl
@[simp] theorem stopTran_writeInProgress : (stopTran s).writeInProgress = false := rfl
@[simp] theorem stopTran_sectorsWritten : (stopTran s).sectorsWritten = s.sectorsWritten := rfl
@[simp] theorem stopTran_count : (stopTran s).count = s.count := rfl
@[simp] theorem stopTran_cfg : (stopTran s).cfg = s.cfg := rfl
@[simp] theorem stopTran_hostMem : (stopTran s).hostMem = s.hostMem := rfl
@[simp] theorem stopTran_hostIn : (stopTran s).hostIn = s.hostIn := rfl
@[simp] theorem stopTran_results : (stopTran s).results = s.results := rfl
@[simp] theorem stopTran_driveIn : (stopTran s).driveIn = s.driveIn := rfl
@[simp] theorem stopTran_events : (stopTran s).events = s.events := rfl
@[simp] theorem stopTran_log : (stopTran s).log = s.log := rfl

@[simp] theorem endReadSession_rdState : (endReadSession s).rdState = s.rdState := rfl
@[simp] theorem endReadSession_wrState : (endReadSession s).wrState = s.wrState := rfl
@[simp] theorem endReadSession_dir : (endReadSession s).dir = s.dir := rfl
@[simp] theorem endReadSession_dout : (endReadSession s).dout = s.dout := rfl
@[simp] theorem endReadSession_doutWritten : (endReadSession s).doutWritten = s.doutWritten := rfl
@[simp] theorem endReadSession_addr : (endReadSession s).addr = s.addr := rfl
@[simp] theorem endReadSession_addrWritten : (endReadSession s).addrWritten = s.addrWritten := rfl
@[simp] theorem endReadSession_mode : (endReadSession s).mode = s.mode := rfl
@[simp] theorem endReadSession_busResolved : (endReadSession s).busResolved = s.busResolved := rfl
@[simp] theorem endReadSession_rcur : (endReadSession s).rcur = s.rcur := rfl
@[simp] theorem endReadSession_wcur : (endReadSession s).wcur = s.wcur := rfl
@[simp] theorem endReadSession_argPos : (endReadSession s).argPos = s.argPos := rfl
@[simp] theorem endReadSession_cmd : (endReadSession s).cmd = s.cmd := rfl
@[simp] theorem endReadSession_arg : (endReadSession s).arg = s.arg := rfl
@[simp] theorem endReadSession_readInProgress : (endReadSession s).readInProgress = false := rfl
@[simp] theorem endReadSession_writeInProgress : (endReadSession s).writeInProgress = s.writeInProgress := rfl
@[simp] theorem endReadSession_sectorsWritten : (endReadSession s).sectorsWritten = s.sectorsWritten := rfl
@[simp] theorem endReadSession_count : (endReadSession s).count = s.count := rfl
@[simp] theorem endReadSession_cfg : (endReadSession s).cfg = s.cfg := rfl
@[simp] theorem endReadSession_hostMem : (endReadSession s).hostMem = s.hostMem := rfl
@[simp] theorem endReadSession_hostIn : (endReadSession s).hostIn = s.hostIn := rfl
@[simp] theorem endReadSession_results : (endReadSession s).results = s.results := rfl
@[simp] theorem endReadSession_driveIn : (endReadSession s).driveIn = s.driveIn := rfl
@[simp] theorem endReadSession_events : (endReadSession s).events = s.events := rfl
@[simp] theorem endReadSession_log : (endReadSession s).log = s.log := rfl

@[simp] theorem beginReadSession_rdState : (beginReadSession s).rdState = s.rdState := rfl
@[simp] theorem beginReadSession_wrState : (beginReadSession s).wrState = s.wrState := rfl
@[simp] theorem beginReadSession_dir : (beginReadSession s).dir = s.dir := rfl
@[simp] theorem beginReadSession_dout : (beginReadSession s).dout = s.dout := rfl
@[simp] theorem beginReadSession_doutWritten : (beginReadSession s).doutWritten = s.doutWritten := rfl
@[simp] theorem beginReadSession_addr : (beginReadSession s).addr = s.addr := rfl
@[simp] theorem beginReadSession_addrWritten : (beginReadSession s).addrWritten = s.addrWritten := rfl
@[simp] theorem beginReadSession_mode : (beginReadSession s).mode = s.mode := rfl
@[simp] theorem beginReadSession_busResolved : (beginReadSession s).busResolved = s.busResolved := rfl
@[simp] theorem beginReadSession_rcur : (beginReadSession s).rcur = s.rcur := rfl
@[simp] theorem beginReadSession_wcur : (beginReadSession s).wcur = s.wcur := rfl
@[simp] theorem beginReadSession_argPos : (beginReadSession s).argPos = s.argPos := rfl
@[simp] theorem beginReadSession_cmd : (beginReadSession s).cmd = s.cmd := rfl
@[simp] theorem beginReadSession_arg : (beginReadSession s).arg = s.arg := rfl
@[simp] theorem beginReadSession_readInProgress : (beginReadSession s).readInProgress = true := rfl
@[simp] theorem beginReadSession_writeInProgress : (beginReadSession s).writeInProgress = s.writeInProgress := rfl
@[simp] theorem beginReadSession_sectorsWritten : (beginReadSession s).sectorsWritten = s.sectorsWritten := rfl
@[simp] theorem beginReadSession_count : (beginReadSession s).count = s.count := rfl
@[simp] theorem beginReadSession_cfg : (beginReadSession s).cfg = s.cfg := rfl
@[simp] theorem beginReadSession_hostMem : (beginReadSession s).hostMem = s.hostMem := rfl
@[simp] theorem beginReadSession_hostIn : (beginReadSession s).hostIn = s.hostIn := rfl
@[simp] theorem beginReadSession_results : (beginReadSession s).results = s.results := rfl
@[simp] theorem beginReadSession_driveIn : (beginReadSession s).driveIn = s.driveIn := rfl
@[simp] theorem beginReadSession_events : (beginReadSession s).events = s.events := rfl
@[simp] theorem beginReadSession_log : (beginReadSession s).log = s.log := rfl

@[simp] theorem clearSectorsWritten_rdState : (clearSectorsWritten s).rdState = s.rdState := rfl
@[simp] theorem clearSectorsWritten_wrState : (clearSectorsWritten s).wrState = s.wrState := rfl
@[simp] theorem clearSectorsWritten_dir : (clearSectorsWritten s).dir = s.dir := rfl
@[simp] theorem clearSectorsWritten_dout : (clearSectorsWritten s).dout = s.dout := rfl
@[simp] theorem clearSectorsWritten_doutWritten : (clearSectorsWritten s).doutWritten = s.doutWritten := rfl
@[simp] theorem clearSectorsWritten_addr : (clearSectorsWritten s).addr = s.addr := rfl
@[simp] theorem clearSectorsWritten_addrWritten : (clearSectorsWritten s).addrWritten = s.addrWritten := rfl
@[simp] theorem clearSectorsWritten_mode : (clearSectorsWritten s).mode = s.mode := rfl
@[simp] theorem clearSectorsWritten_busResolved : (clearSectorsWritten s).busResolved = s.busResolved := rfl
@[simp] theorem clearSectorsWritten_rcur : (clearSectorsWritten s).rcur = s.rcur := rfl
@[simp] theorem clearSectorsWritten_wcur : (clearSectorsWritten s).wcur = s.wcur := rfl
@[simp] theorem clearSectorsWritten_argPos : (clearSectorsWritten s).argPos = s.argPos := rfl
@[simp] theorem clearSectorsWritten_cmd : (clearSectorsWritten s).cmd = s.cmd := rfl
@[simp] theorem clearSectorsWritten_arg : (clearSectorsWritten s).arg = s.arg := rfl
@[simp] theorem clearSectorsWritten_readInProgress : (clearSectorsWritten s).readInProgress = s.readInProgress := rfl
@[simp] theorem clearSectorsWritten_writeInProgress : (clearSectorsWritten s).writeInProgress = s.writeInProgress := rfl
@[simp] theorem clearSectorsWritten_sectorsWritten : (clearSectorsWritten s).sectorsWritten = 0 := rfl
@[simp] theorem clearSectorsWritten_count : (clearSectorsWritten s).count = s.count := rfl
@[simp] theorem clearSectorsWritten_cfg : (clearSectorsWritten s).cfg = s.cfg := rfl
@[simp] theorem clearSectorsWritten_hostMem : (clearSectorsWritten s).hostMem = s.hostMem := rfl
@[simp] theorem clearSectorsWritten_hostIn : (clearSectorsWritten s).hostIn = s.hostIn := rfl
@[simp] theorem clearSectorsWritten_results : (clearSectorsWritten s).results = s.results := rfl
@[simp] theorem clearSectorsWritten_driveIn : (clearSectorsWritten s).driveIn = s.driveIn := rfl
@[simp] theorem clearSectorsWritten_events : (clearSectorsWritten s).events = s.events := rfl
@[simp] theorem clearSectorsWritten_log : (clearSectorsWritten s).log = s.log := rfl

@[simp] theorem openFrame_rdState (b : Byte) : (openFrame b s).rdState = s.rdState := rfl
@[simp] theorem openFrame_wrState (b : Byte) : (openFrame b s).wrState = s.wrState := rfl
@[simp] theorem openFrame_dir (b : Byte) : (openFrame b s).dir = s.dir := rfl
@[simp] theorem openFrame_dout (b : Byte) : (openFrame b s).dout = s.dout := rfl
@[simp] theorem openFrame_doutWritten (b : Byte) : (openFrame b s).doutWritten = s.doutWritten := rfl
@[simp] theorem openFrame_addr (b : Byte) : (openFrame b s).addr = s.addr := rfl
@[simp] theorem openFrame_addrWritten (b : Byte) : (openFrame b s).addrWritten = s.addrWritten := rfl
@[simp] theorem openFrame_mode (b : Byte) : (openFrame b s).mode = s.mode := rfl
@[simp] theorem openFrame_busResolved (b : Byte) : (openFrame b s).busResolved = s.busResolved := rfl
@[simp] theorem openFrame_rcur (b : Byte) : (openFrame b s).rcur = s.rcur := rfl
@[simp] theorem openFrame_wcur (b : Byte) : (openFrame b s).wcur = s.wcur := rfl
@[simp] theorem openFrame_argPos (b : Byte) : (openFrame b s).argPos = 1 := rfl
@[simp] theorem openFrame_cmd (b : Byte) : (openFrame b s).cmd = commandCode b := rfl
@[simp] theorem openFrame_arg (b : Byte) : (openFrame b s).arg = 0 := rfl
@[simp] theorem openFrame_readInProgress (b : Byte) : (openFrame b s).readInProgress = s.readInProgress := rfl
@[simp] theorem openFrame_writeInProgress (b : Byte) : (openFrame b s).writeInProgress = s.writeInProgress := rfl
@[simp] theorem openFrame_sectorsWritten (b : Byte) : (openFrame b s).sectorsWritten = s.sectorsWritten := rfl
@[simp] theorem openFrame_count (b : Byte) : (openFrame b s).count = s.count := rfl
@[simp] theorem openFrame_cfg (b : Byte) : (openFrame b s).cfg = s.cfg := rfl
@[simp] theorem openFrame_hostMem (b : Byte) : (openFrame b s).hostMem = s.hostMem := rfl
@[simp] theorem openFrame_hostIn (b : Byte) : (openFrame b s).hostIn = s.hostIn := rfl
@[simp] theorem openFrame_results (b : Byte) : (openFrame b s).results = s.results := rfl
@[simp] theorem openFrame_driveIn (b : Byte) : (openFrame b s).driveIn = s.driveIn := rfl
@[simp] theorem openFrame_events (b : Byte) : (openFrame b s).events = s.events := rfl
@[simp] theorem openFrame_log (b : Byte) : (openFrame b s).log = s.log := rfl

@[simp] theorem takeArgByte_rdState (b : Byte) : (takeArgByte b s).rdState = s.rdState := rfl
@[simp] theorem takeArgByte_wrState (b : Byte) : (takeArgByte b s).wrState = s.wrState := rfl
@[simp] theorem takeArgByte_dir (b : Byte) : (takeArgByte b s).dir = s.dir := rfl
@[simp] theorem takeArgByte_dout (b : Byte) : (takeArgByte b s).dout = s.dout := rfl
@[simp] theorem takeArgByte_doutWritten (b : Byte) : (takeArgByte b s).doutWritten = s.doutWritten := rfl
@[simp] theorem takeArgByte_addr (b : Byte) : (takeArgByte b s).addr = s.addr := rfl
@[simp] theorem takeArgByte_addrWritten (b : Byte) : (takeArgByte b s).addrWritten = s.addrWritten := rfl
@[simp] theorem takeArgByte_mode (b : Byte) : (takeArgByte b s).mode = s.mode := rfl
@[simp] theorem takeArgByte_busResolved (b : Byte) : (takeArgByte b s).busResolved = s.busResolved := rfl
@[simp] theorem takeArgByte_rcur (b : Byte) : (takeArgByte b s).rcur = s.rcur := rfl
@[simp] theorem takeArgByte_wcur (b : Byte) : (takeArgByte b s).wcur = s.wcur := rfl
@[simp] theorem takeArgByte_argPos (b : Byte) : (takeArgByte b s).argPos = s.argPos + 1 := rfl
@[simp] theorem takeArgByte_cmd (b : Byte) : (takeArgByte b s).cmd = s.cmd := rfl
@[simp] theorem takeArgByte_arg (b : Byte) : (takeArgByte b s).arg = shiftIn s.arg b := rfl
@[simp] theorem takeArgByte_readInProgress (b : Byte) : (takeArgByte b s).readInProgress = s.readInProgress := rfl
@[simp] theorem takeArgByte_writeInProgress (b : Byte) : (takeArgByte b s).writeInProgress = s.writeInProgress := rfl
@[simp] theorem takeArgByte_sectorsWritten (b : Byte) : (takeArgByte b s).sectorsWritten = s.sectorsWritten := rfl
@[simp] theorem takeArgByte_count (b : Byte) : (takeArgByte b s).count = s.count := rfl
@[simp] theorem takeArgByte_cfg (b : Byte) : (takeArgByte b s).cfg = s.cfg := rfl
@[simp] theorem takeArgByte_hostMem (b : Byte) : (takeArgByte b s).hostMem = s.hostMem := rfl
@[simp] theorem takeArgByte_hostIn (b : Byte) : (takeArgByte b s).hostIn = s.hostIn := rfl
@[simp] theorem takeArgByte_results (b : Byte) : (takeArgByte b s).results = s.results := rfl
@[simp] theorem takeArgByte_driveIn (b : Byte) : (takeArgByte b s).driveIn = s.driveIn := rfl
@[simp] theorem takeArgByte_events (b : Byte) : (takeArgByte b s).events = s.events := rfl
@[simp] theorem takeArgByte_log (b : Byte) : (takeArgByte b s).log = s.log := rfl

@[simp] theorem closeFrame_rdState : (closeFrame s).rdState = s.rdState := rfl
@[simp] theorem closeFrame_wrState : (closeFrame s).wrState = s.wrState := rfl
@[simp] theorem closeFrame_dir : (closeFrame s).dir = s.dir := rfl
@[simp] theorem closeFrame_dout : (closeFrame s).dout = s.dout := rfl
@[simp] theorem closeFrame_doutWritten : (closeFrame s).doutWritten = s.doutWritten := rfl
@[simp] theorem closeFrame_addr : (closeFrame s).addr = s.addr := rfl
@[simp] theorem closeFrame_addrWritten : (closeFrame s).addrWritten = s.addrWritten := rfl
@[simp] theorem closeFrame_mode : (closeFrame s).mode = s.mode := rfl
@[simp] theorem closeFrame_busResolved : (closeFrame s).busResolved = s.busResolved := rfl
@[simp] theorem closeFrame_rcur : (closeFrame s).rcur = s.rcur := rfl
@[simp] theorem closeFrame_wcur : (closeFrame s).wcur = s.wcur := rfl
@[simp] theorem closeFrame_argPos : (closeFrame s).argPos = 0 := rfl
@[simp] theorem closeFrame_cmd : (closeFrame s).cmd = s.cmd := rfl
@[simp] theorem closeFrame_arg : (closeFrame s).arg = s.arg := rfl
@[simp] theorem closeFrame_readInProgress : (closeFrame s).readInProgress = s.readInProgress := rfl
@[simp] theorem closeFrame_writeInProgress : (closeFrame s).writeInProgress = s.writeInProgress := rfl
@[simp] theorem closeFrame_sectorsWritten : (closeFrame s).sectorsWritten = s.sectorsWritten := rfl
@[simp] theorem closeFrame_count : (closeFrame s).count = s.count := rfl
@[simp] theorem closeFrame_cfg : (closeFrame s).cfg = s.cfg := rfl
@[simp] theorem closeFrame_hostMem : (closeFrame s).hostMem = s.hostMem := rfl
@[simp] theorem closeFrame_hostIn : (closeFrame s).hostIn = s.hostIn := rfl
@[simp] theorem closeFrame_results : (closeFrame s).results = s.results := rfl
@[simp] theorem closeFrame_driveIn : (closeFrame s).driveIn = s.driveIn := rfl
@[simp] theorem closeFrame_events : (closeFrame s).events = s.events := rfl
@[simp] theorem closeFrame_log : (closeFrame s).log = s.log := rfl

@[simp] theorem driveStrobe_rd_rdState (st : StrobeState) : (driveStrobe .rd st s).rdState = st := rfl
@[simp] theorem driveStrobe_rd_wrState (st : StrobeState) : (driveStrobe .rd st s).wrState = s.wrState := rfl
@[simp] theorem driveStrobe_rd_dir (st : StrobeState) : (driveStrobe .rd st s).dir = s.dir := rfl
@[simp] theorem driveStrobe_rd_dout (st : StrobeState) : (driveStrobe .rd st s).dout = s.dout := rfl
@[simp] theorem driveStrobe_rd_doutWritten (st : StrobeState) : (driveStrobe .rd st s).doutWritten = s.doutWritten := rfl
@[simp] theorem driveStrobe_rd_addr (st : StrobeState) : (driveStrobe .rd st s).addr = s.addr := rfl
@[simp] theorem driveStrobe_rd_addrWritten (st : StrobeState) : (driveStrobe .rd st s).addrWritten = s.addrWritten := rfl
@[simp] theorem driveStrobe_rd_mode (st : StrobeState) : (driveStrobe .rd st s).mode = s.mode := rfl
@[simp] theorem driveStrobe_rd_busResolved (st : StrobeState) : (driveStrobe .rd st s).busResolved = s.busResolved := rfl
@[simp] theorem driveStrobe_rd_rcur (st : StrobeState) : (driveStrobe .rd st s).rcur = s.rcur := rfl
@[simp] theorem driveStrobe_rd_wcur (st : StrobeState) : (driveStrobe .rd st s).wcur = s.wcur := rfl
@[simp] theorem driveStrobe_rd_argPos (st : StrobeState) : (driveStrobe .rd st s).argPos = s.argPos := rfl
@[simp] theorem driveStrobe_rd_cmd (st : StrobeState) : (driveStrobe .rd st s).cmd = s.cmd := rfl
@[simp] theorem driveStrobe_rd_arg (st : StrobeState) : (driveStrobe .rd st s).arg = s.arg := rfl
@[simp] theorem driveStrobe_rd_readInProgress (st : StrobeState) : (driveStrobe .rd st s).readInProgress = s.readInProgress := rfl
@[simp] theorem driveStrobe_rd_writeInProgress (st : StrobeState) : (driveStrobe .rd st s).writeInProgress = s.writeInProgress := rfl
@[simp] theorem driveStrobe_rd_sectorsWritten (st : StrobeState) : (driveStrobe .rd st s).sectorsWritten = s.sectorsWritten := rfl
@[simp] theorem driveStrobe_rd_count (st : StrobeState) : (driveStrobe .rd st s).count = s.count := rfl
@[simp] theorem driveStrobe_rd_cfg (st : StrobeState) : (driveStrobe .rd st s).cfg = s.cfg := rfl
@[simp] theorem driveStrobe_rd_hostMem (st : StrobeState) : (driveStrobe .rd st s).hostMem = s.hostMem := rfl
@[simp] theorem driveStrobe_rd_hostIn (st : StrobeState) : (driveStrobe .rd st s).hostIn = s.hostIn := rfl
@[simp] theorem driveStrobe_rd_results (st : StrobeState) : (driveStrobe .rd st s).results = s.results := rfl
@[simp] theorem driveStrobe_rd_driveIn (st : StrobeState) : (driveStrobe .rd st s).driveIn = s.driveIn := rfl
@[simp] theorem driveStrobe_rd_events (st : StrobeState) : (driveStrobe .rd st s).events = .strobe .rd st :: s.events := rfl
@[simp] theorem driveStrobe_rd_log (st : StrobeState) : (driveStrobe .rd st s).log = s.log := rfl

@[simp] theorem driveStrobe_wr_rdState (st : StrobeState) : (driveStrobe .wr st s).rdState = s.rdState := rfl
@[simp] theorem driveStrobe_wr_wrState (st : StrobeState) : (driveStrobe .wr st s).wrState = st := rfl
@[simp] theorem driveStrobe_wr_dir (st : StrobeState) : (driveStrobe .wr st s).dir = s.dir := rfl
@[simp] theorem driveStrobe_wr_dout (st : StrobeState) : (driveStrobe .wr st s).dout = s.dout := rfl
@[simp] theorem driveStrobe_wr_doutWritten (st : StrobeState) : (driveStrobe .wr st s).doutWritten = s.doutWritten := rfl
@[simp] theorem driveStrobe_wr_addr (st : StrobeState) : (driveStrobe .wr st s).addr = s.addr := rfl
@[simp] theorem driveStrobe_wr_addrWritten (st : StrobeState) : (driveStrobe .wr st s).addrWritten = s.addrWritten := rfl
@[simp] theorem driveStrobe_wr_mode (st : StrobeState) : (driveStrobe .wr st s).mode = s.mode := rfl
@[simp] theorem driveStrobe_wr_busResolved (st : StrobeState) : (driveStrobe .wr st s).busResolved = s.busResolved := rfl
@[simp] theorem driveStrobe_wr_rcur (st : StrobeState) : (driveStrobe .wr st s).rcur = s.rcur := rfl
@[simp] theorem driveStrobe_wr_wcur (st : StrobeState) : (driveStrobe .wr st s).wcur = s.wcur := rfl
@[simp] theorem driveStrobe_wr_argPos (st : StrobeState) : (driveStrobe .wr st s).argPos = s.argPos := rfl
@[simp] theorem driveStrobe_wr_cmd (st : StrobeState) : (driveStrobe .wr st s).cmd = s.cmd := rfl
@[simp] theorem driveStrobe_wr_arg (st : StrobeState) : (driveStrobe .wr st s).arg = s.arg := rfl
@[simp] theorem driveStrobe_wr_readInProgress (st : StrobeState) : (driveStrobe .wr st s).readInProgress = s.readInProgress := rfl
@[simp] theorem driveStrobe_wr_writeInProgress (st : StrobeState) : (driveStrobe .wr st s).writeInProgress = s.writeInProgress := rfl
@[simp] theorem driveStrobe_wr_sectorsWritten (st : StrobeState) : (driveStrobe .wr st s).sectorsWritten = s.sectorsWritten := rfl
@[simp] theorem driveStrobe_wr_count (st : StrobeState) : (driveStrobe .wr st s).count = s.count := rfl
@[simp] theorem driveStrobe_wr_cfg (st : StrobeState) : (driveStrobe .wr st s).cfg = s.cfg := rfl
@[simp] theorem driveStrobe_wr_hostMem (st : StrobeState) : (driveStrobe .wr st s).hostMem = s.hostMem := rfl
@[simp] theorem driveStrobe_wr_hostIn (st : StrobeState) : (driveStrobe .wr st s).hostIn = s.hostIn := rfl
@[simp] theorem driveStrobe_wr_results (st : StrobeState) : (driveStrobe .wr st s).results = s.results := rfl
@[simp] theorem driveStrobe_wr_driveIn (st : StrobeState) : (driveStrobe .wr st s).driveIn = s.driveIn := rfl
@[simp] theorem driveStrobe_wr_events (st : StrobeState) : (driveStrobe .wr st s).events = .strobe .wr st :: s.events := rfl
@[simp] theorem driveStrobe_wr_log (st : StrobeState) : (driveStrobe .wr st s).log = s.log := rfl

@[simp] theorem sampleBus_rdState : (sampleBus s).1.rdState = s.rdState := rfl
@[simp] theorem sampleBus_wrState : (sampleBus s).1.wrState = s.wrState := rfl
@[simp] theorem sampleBus_dir : (sampleBus s).1.dir = s.dir := rfl
@[simp] theorem sampleBus_dout : (sampleBus s).1.dout = s.dout := rfl
@[simp] theorem sampleBus_doutWritten : (sampleBus s).1.doutWritten = s.doutWritten := rfl
@[simp] theorem sampleBus_addr : (sampleBus s).1.addr = s.addr := rfl
@[simp] theorem sampleBus_addrWritten : (sampleBus s).1.addrWritten = s.addrWritten := rfl
@[simp] theorem sampleBus_mode : (sampleBus s).1.mode = s.mode := rfl
@[simp] theorem sampleBus_busResolved : (sampleBus s).1.busResolved = s.busResolved := rfl
@[simp] theorem sampleBus_rcur : (sampleBus s).1.rcur = s.rcur := rfl
@[simp] theorem sampleBus_wcur : (sampleBus s).1.wcur = s.wcur := rfl
@[simp] theorem sampleBus_argPos : (sampleBus s).1.argPos = s.argPos := rfl
@[simp] theorem sampleBus_cmd : (sampleBus s).1.cmd = s.cmd := rfl
@[simp] theorem sampleBus_arg : (sampleBus s).1.arg = s.arg := rfl
@[simp] theorem sampleBus_readInProgress : (sampleBus s).1.readInProgress = s.readInProgress := rfl
@[simp] theorem sampleBus_writeInProgress : (sampleBus s).1.writeInProgress = s.writeInProgress := rfl
@[simp] theorem sampleBus_sectorsWritten : (sampleBus s).1.sectorsWritten = s.sectorsWritten := rfl
@[simp] theorem sampleBus_count : (sampleBus s).1.count = s.count := rfl
@[simp] theorem sampleBus_cfg : (sampleBus s).1.cfg = s.cfg := rfl
@[simp] theorem sampleBus_hostMem : (sampleBus s).1.hostMem = s.hostMem := rfl
@[simp] theorem sampleBus_hostIn : (sampleBus s).1.hostIn = s.hostIn := rfl
@[simp] theorem sampleBus_results : (sampleBus s).1.results = s.results := rfl
@[simp] theorem sampleBus_driveIn : (sampleBus s).1.driveIn = s.driveIn.tail := rfl
@[simp] theorem sampleBus_events : (sampleBus s).1.events = .sample (driveAnswer s) :: s.events := rfl
@[simp] theorem sampleBus_log : (sampleBus s).1.log = s.log := rfl
@[simp] theorem sampleBus_byte : (sampleBus s).2 = driveAnswer s := rfl

end Sys2Proof.Machine
end

