-- ==== Sys2Proof/Laws/Memory.lean ====
section
/-! SUPPORT. Host memory: reading after a write, and that a write keeps the canonical form. -/

namespace Sys2Proof.Machine

open Sys2Proof

theorem Memory.read_cons_self (a : Nat) (v : Byte) (m : Memory)
    (h : Memory.read m a = Memory.unlisted a) : Memory.read (Memory.cons a v m) a = v := by
  unfold Memory.cons
  split
  · next hv => rw [h, hv]
  · simp [Memory.read]

theorem Memory.read_cons_other (a a' : Nat) (v : Byte) (m : Memory) (h : a ≠ a') :
    Memory.read (Memory.cons a v m) a' = Memory.read m a' := by
  unfold Memory.cons
  split
  · rfl
  · simp [Memory.read, h]

/-- An address below every listed one reads as unlisted. -/
theorem Memory.read_below (m : Memory) (a : Nat) (h : ∀ c ∈ m, a < c.1) :
    Memory.read m a = Memory.unlisted a := by
  induction m with
  | nil => rfl
  | cons c m ih =>
    obtain ⟨b, w⟩ := c
    have hb : a < b := h (b, w) (by simp)
    have : b ≠ a := by omega
    simp only [Memory.read, this, if_false]
    exact ih (fun c hc => h c (by simp [hc]))

theorem Memory.Wf.tail {c : Host.Cell} {m : Memory} (h : Memory.Wf (c :: m)) : Memory.Wf m :=
  ⟨(List.pairwise_cons.mp h.1).2, fun d hd => h.2 d (by simp [hd])⟩

/-- The byte written is read back. -/
theorem Memory.read_write_self (m : Memory) (a : Nat) (v : Byte) (h : m.Wf) :
    (m.write a v).read a = v := by
  induction m with
  | nil => exact Memory.read_cons_self a v [] rfl
  | cons c m ih =>
    obtain ⟨b, w⟩ := c
    have hlt := (List.pairwise_cons.mp h.1).1
    unfold Memory.write
    split
    · next hab =>
      apply Memory.read_cons_self
      apply Memory.read_below
      intro d hd
      rcases List.mem_cons.mp hd with rfl | hd
      · exact hab
      · exact lt_trans hab (hlt d hd)
    · split
      · next hab =>
        subst hab
        exact Memory.read_cons_self _ _ _ (Memory.read_below _ _ hlt)
      · next hab =>
        have hba : b ≠ a := fun e => hab e.symm
        simp only [Memory.read, hba, if_false]
        exact ih h.tail

/-- Every other address reads as before. -/
theorem Memory.read_write_other (m : Memory) (a a' : Nat) (v : Byte) (h : a ≠ a') :
    (m.write a v).read a' = m.read a' := by
  induction m with
  | nil => exact Memory.read_cons_other a a' v [] h
  | cons c m ih =>
    obtain ⟨b, w⟩ := c
    unfold Memory.write
    split
    · exact Memory.read_cons_other a a' v _ h
    · split
      · next hab =>
        subst hab
        rw [Memory.read_cons_other a a' v _ h]
        simp [Memory.read, h]
      · simp only [Memory.read, ih]

theorem Memory.wf_cons (a : Nat) (v : Byte) (m : Memory) (h : m.Wf) (hlt : ∀ c ∈ m, a < c.1) :
    (Memory.cons a v m).Wf := by
  unfold Memory.cons
  split
  · exact h
  · next hv =>
    refine ⟨List.pairwise_cons.mpr ⟨hlt, h.1⟩, ?_⟩
    intro d hd
    rcases List.mem_cons.mp hd with rfl | hd
    · exact hv
    · exact h.2 d hd

/-- A cell of a memory after a write lies at the written address or at an old cell's. -/
theorem Memory.mem_write {m : Memory} {a : Nat} {v : Byte} {c : Host.Cell}
    (h : c ∈ m.write a v) : c.1 = a ∨ c ∈ m := by
  have hcons : ∀ {m' : Memory}, c ∈ Memory.cons a v m' → c.1 = a ∨ c ∈ m' := by
    intro m' hm
    unfold Memory.cons at hm
    split at hm
    · exact .inr hm
    · rcases List.mem_cons.mp hm with rfl | hm
      · exact .inl rfl
      · exact .inr hm
  induction m with
  | nil => exact hcons h
  | cons d m ih =>
    obtain ⟨b, w⟩ := d
    unfold Memory.write at h
    split at h
    · exact hcons h
    · split at h
      · exact (hcons h).imp_right (List.mem_cons_of_mem _)
      · rcases List.mem_cons.mp h with rfl | h
        · simp
        · exact (ih h).imp_right (List.mem_cons_of_mem _)

/-- A write keeps the canonical form. -/
theorem Memory.wf_write (m : Memory) (a : Nat) (v : Byte) (h : m.Wf) : (m.write a v).Wf := by
  induction m with
  | nil => exact Memory.wf_cons a v [] h (by simp)
  | cons c m ih =>
    obtain ⟨b, w⟩ := c
    have hlt := (List.pairwise_cons.mp h.1).1
    unfold Memory.write
    split
    · next hab =>
      refine Memory.wf_cons a v _ h ?_
      intro d hd
      rcases List.mem_cons.mp hd with rfl | hd
      · exact hab
      · exact lt_trans hab (hlt d hd)
    · split
      · next hab =>
        subst hab
        exact Memory.wf_cons _ _ _ h.tail hlt
      · next hna hne =>
        refine ⟨List.pairwise_cons.mpr ⟨?_, (ih h.tail).1⟩, ?_⟩
        · intro d hd
          rcases Memory.mem_write hd with hd | hd
          · simp only [hd]; omega
          · exact hlt d hd
        · intro d hd
          rcases List.mem_cons.mp hd with rfl | hd
          · exact h.2 _ (by simp)
          · exact (ih h.tail).2 d hd

/-- The memory of the reset state has the canonical form. -/
theorem reset_hostMem_wf : State.reset.hostMem.Wf := by
  constructor <;> simp [State.reset]

end Sys2Proof.Machine
end

