-- ==== Sys2Proof/Laws/Bus.lean ====
section
/-! SUPPORT. What a register read, a register write and the two polls can do. -/

namespace Sys2Proof.Machine

open Sys2Proof

/-- The state after `DriveRead(a) = v` (R150). -/
def afterRead (a : RegAddr) (v : Byte) (s : State) : State :=
  { s with
    rdState := .negate, dir := .input, addr := a, addrWritten := true,
    driveIn := s.driveIn.tail, events := (readTrace a v).reverse ++ s.events }

/-- The state after `DriveWrite(a, v)` (R152). -/
def afterWrite (a : RegAddr) (v : Byte) (s : State) : State :=
  { s with
    wrState := .negate, dir := .output, dout := v, doutWritten := true, addr := a,
    addrWritten := true, events := (writeTrace a v).reverse ++ s.events }

/-- A register read: the six events, and the byte the drive answers. -/
theorem readReg_state (a : RegAddr) (s : State) :
    (readReg a s).1 = afterRead a (readReg a s).2 s := rfl

/-- A register read answers the next pending byte. -/
theorem readReg_byte (a : RegAddr) (s : State) (b : Byte) (rest : List Byte)
    (h : s.driveIn = b :: rest) : (readReg a s).2 = b := by
  simp [readReg, driveAnswer, h]

theorem readReg_pending (a : RegAddr) (s : State) (b : Byte) (rest : List Byte)
    (h : s.driveIn = b :: rest) : readReg a s = (afterRead a b s, b) := by
  rw [← readReg_byte a s b rest h]; rfl

theorem writeReg_state (a : RegAddr) (v : Byte) (s : State) :
    writeReg a v s = afterWrite a v s := rfl

@[simp] theorem writeReg_cfg (a : RegAddr) (v : Byte) (s : State) : (writeReg a v s).cfg = s.cfg := rfl

@[simp] theorem readReg_cfg (a : RegAddr) (s : State) : (readReg a s).1.cfg = s.cfg := rfl

@[simp] theorem issueCommand_cfg (v : Byte) (s : State) : (issueCommand v s).cfg = s.cfg := rfl

/-- The bus events from `s` to `t` account for the two latches and the direction (R130): a latch with no event of
its own keeps its value, and a direction that no event turns away from stays. -/
def LatchStep (s t : State) : Prop :=
  ∃ evs, t.events = evs ++ s.events ∧
    ((∀ v, BusEvent.load v ∉ evs) → t.dout = s.dout ∧ t.doutWritten = s.doutWritten) ∧
    ((∀ a, BusEvent.address a ∉ evs) → t.addr = s.addr ∧ t.addrWritten = s.addrWritten) ∧
    ∀ d, (∀ d', d' ≠ d → BusEvent.direction d' ∉ evs) → s.dir = d → t.dir = d

theorem LatchStep.refl (s : State) : LatchStep s s :=
  ⟨[], rfl, fun _ => ⟨rfl, rfl⟩, fun _ => ⟨rfl, rfl⟩, fun _ _ h => h⟩

theorem LatchStep.trans {s t u : State} (h₁ : LatchStep s t) (h₂ : LatchStep t u) :
    LatchStep s u := by
  obtain ⟨e₁, t₁, d₁, a₁, r₁⟩ := h₁
  obtain ⟨e₂, t₂, d₂, a₂, r₂⟩ := h₂
  refine ⟨e₂ ++ e₁, by rw [t₂, t₁, List.append_assoc], fun h => ?_, fun h => ?_, fun d h hs => ?_⟩
  · simp only [List.mem_append, not_or] at h
    have x := d₁ fun v => (h v).2
    have y := d₂ fun v => (h v).1
    exact ⟨y.1.trans x.1, y.2.trans x.2⟩
  · simp only [List.mem_append, not_or] at h
    have x := a₁ fun v => (h v).2
    have y := a₂ fun v => (h v).1
    exact ⟨y.1.trans x.1, y.2.trans x.2⟩
  · simp only [List.mem_append, not_or] at h
    exact r₂ d (fun d' hd => (h d' hd).1) (r₁ d (fun d' hd => (h d' hd).2) hs)

/-- One event of the trace with its own update. -/
theorem latchStep_driveStrobe (l : StrobeLine) (st : StrobeState) (s : State) :
    LatchStep s (driveStrobe l st s) :=
  ⟨[.strobe l st], by cases l <;> rfl, fun _ => by cases l <;> exact ⟨rfl, rfl⟩,
    fun _ => by cases l <;> exact ⟨rfl, rfl⟩, fun _ _ h => by cases l <;> exact h⟩

theorem latchStep_turnBus (d : Direction) (s : State) : LatchStep s (turnBus d s) :=
  ⟨[.direction d], rfl, fun _ => ⟨rfl, rfl⟩, fun _ => ⟨rfl, rfl⟩,
    fun _ h _ => Classical.byContradiction fun hne => h d hne (List.mem_singleton.2 rfl)⟩

theorem latchStep_loadData (v : Byte) (s : State) : LatchStep s (loadData v s) :=
  ⟨[.load v], rfl, fun h => absurd (List.mem_singleton.2 rfl) (h v), fun _ => ⟨rfl, rfl⟩,
    fun _ _ h => h⟩

theorem latchStep_loadAddress (a : RegAddr) (s : State) : LatchStep s (loadAddress a s) :=
  ⟨[.address a], rfl, fun _ => ⟨rfl, rfl⟩, fun h => absurd (List.mem_singleton.2 rfl) (h a),
    fun _ _ h => h⟩

theorem latchStep_sampleBus (s : State) : LatchStep s (sampleBus s).1 :=
  ⟨[.sample (driveAnswer s)], rfl, fun _ => ⟨rfl, rfl⟩, fun _ => ⟨rfl, rfl⟩, fun _ _ h => h⟩

theorem latchStep_readReg (a : RegAddr) (s : State) : LatchStep s (readReg a s).1 :=
  (((((latchStep_driveStrobe _ _ s).trans (latchStep_turnBus _ _)).trans
    (latchStep_loadAddress _ _)).trans (latchStep_driveStrobe _ _ _)).trans
    (latchStep_sampleBus _)).trans (latchStep_driveStrobe _ _ _)

theorem latchStep_writeReg (a : RegAddr) (v : Byte) (s : State) : LatchStep s (writeReg a v s) :=
  (((((latchStep_driveStrobe _ _ s).trans (latchStep_turnBus _ _)).trans
    (latchStep_loadData _ _)).trans (latchStep_loadAddress _ _)).trans
    (latchStep_driveStrobe _ _ _)).trans (latchStep_driveStrobe _ _ _)

theorem BusOnly.refl (s : State) : BusOnly s s := rfl

theorem BusOnly.trans {s t u : State} (h₁ : BusOnly s t) (h₂ : BusOnly t u) : BusOnly s u := by
  unfold BusOnly at *; rw [h₂, h₁]

theorem busOnly_afterRead (a : RegAddr) (v : Byte) (s : State) : BusOnly s (afterRead a v s) := rfl

theorem busOnly_afterWrite (a : RegAddr) (v : Byte) (s : State) : BusOnly s (afterWrite a v s) := rfl

theorem busOnly_readReg (a : RegAddr) (s : State) : BusOnly s (readReg a s).1 := rfl

theorem busOnly_writeReg (a : RegAddr) (v : Byte) (s : State) : BusOnly s (writeReg a v s) := rfl

theorem busOnly_reportError (sev : Severity) (k : LogKind) (s : State) :
    BusOnly s (reportError sev k s) := rfl

theorem busOnly_issueCommand (v : Byte) (s : State) : BusOnly s (issueCommand v s) := rfl

/-- The fields above the bus are those before. -/
theorem BusOnly.fields {s t : State} (h : BusOnly s t) :
    t.mode = s.mode ∧ t.busResolved = s.busResolved ∧ t.rcur = s.rcur ∧ t.wcur = s.wcur ∧
      t.argPos = s.argPos ∧ t.cmd = s.cmd ∧ t.arg = s.arg ∧
      t.readInProgress = s.readInProgress ∧ t.writeInProgress = s.writeInProgress ∧
      t.sectorsWritten = s.sectorsWritten ∧ t.count = s.count ∧ t.cfg = s.cfg ∧
      t.hostMem = s.hostMem ∧ t.hostIn = s.hostIn ∧ t.results = s.results := by
  unfold BusOnly at h
  rw [h]
  simp

theorem BusOnly.cfg {s t : State} (h : BusOnly s t) : t.cfg = s.cfg := h.fields.2.2.2.2.2.2.2.2.2.2.2.1

theorem BusOnly.hostMem {s t : State} (h : BusOnly s t) : t.hostMem = s.hostMem :=
  h.fields.2.2.2.2.2.2.2.2.2.2.2.2.1

theorem BusOnly.mode {s t : State} (h : BusOnly s t) : t.mode = s.mode := h.fields.1

theorem BusOnly.results {s t : State} (h : BusOnly s t) : t.results = s.results :=
  h.fields.2.2.2.2.2.2.2.2.2.2.2.2.2.2

/-- Returning a result after a step over the bus. -/
theorem busOnly_returns {s t : State} (h : BusOnly s t) (r : Ret) :
    BusOnly s { returns r t with results := s.results } := by
  unfold BusOnly at *
  conv_lhs => rw [h]
  rfl

theorem busOnly_pollStatus (mask : Byte) (n : Nat) (s : State) :
    BusOnly s (pollStatus mask n s).1 := by
  induction n generalizing s with
  | zero => exact BusOnly.refl s
  | succ n ih =>
    simp only [pollStatus]
    split
    · exact busOnly_readReg _ s
    · exact (busOnly_readReg _ s).trans (ih _)

theorem busOnly_waitStatus (mask : Byte) (s : State) : BusOnly s (waitStatus mask s).1 := by
  have h := busOnly_pollStatus mask s.cfg.statusTimeoutPolls s
  simp only [waitStatus]
  split
  · exact h
  · exact h.trans (busOnly_reportError _ _ _)

theorem busOnly_readyWait (n : Nat) (s : State) : BusOnly s (readyWait n s).1 := by
  induction n generalizing s with
  | zero => exact BusOnly.refl s
  | succ n ih =>
    simp only [readyWait]
    split
    · exact busOnly_readReg _ s
    · exact (busOnly_readReg _ s).trans (ih _)

/-- The state after reads of one register that give the bytes of a list in turn. -/
def afterReads (a : RegAddr) : List Byte → State → State
  | [], s => s
  | v :: vs, s => afterReads a vs (afterRead a v s)

theorem busOnly_afterReads (a : RegAddr) (vs : List Byte) (s : State) :
    BusOnly s (afterReads a vs s) := by
  induction vs generalizing s with
  | nil => exact BusOnly.refl s
  | cons v vs ih => exact (busOnly_afterRead a v s).trans (ih _)

/-- The trace, the pending answers and the write side of the bus after a list of reads. -/
theorem afterReads_fields (a : RegAddr) (vs : List Byte) (s : State) :
    (afterReads a vs s).events = (readsTrace a vs).reverse ++ s.events ∧
      (afterReads a vs s).driveIn = s.driveIn.drop vs.length ∧
      (afterReads a vs s).log = s.log ∧ (afterReads a vs s).wrState = s.wrState ∧
      (afterReads a vs s).dout = s.dout ∧ (afterReads a vs s).doutWritten = s.doutWritten := by
  induction vs generalizing s with
  | nil => simp [afterReads, readsTrace]
  | cons v vs ih =>
    obtain ⟨h1, h2, h3, h4, h5, h6⟩ := ih (afterRead a v s)
    refine ⟨?_, ?_, h3, h4, h5, h6⟩
    · rw [afterReads, h1]
      simp [readsTrace, afterRead]
    · rw [afterReads, h2]
      cases hd : s.driveIn <;> simp [afterRead, hd]

/-- The read strobe is idle after a list of reads if it was before. -/
theorem afterReads_rdState (a : RegAddr) (vs : List Byte) (s : State) (h : s.rdState = .negate) :
    (afterReads a vs s).rdState = .negate := by
  induction vs generalizing s with
  | nil => exact h
  | cons v vs ih => exact ih _ rfl

/-- The poll of `waitForStatus` on given answers, when it ends in `Ok`. -/
theorem pollStatus_ok (mask met : Byte) (failing rest : List Byte) (n : Nat) (s : State)
    (hd : s.driveIn = failing ++ met :: rest) (hn : failing.length < n)
    (hf : ∀ st ∈ failing, ¬ StatusMet s.cfg mask st) (hm : StatusMet s.cfg mask met) :
    pollStatus mask n s = (afterReads s.cfg.regStatusCmd (failing ++ [met]) s, .ok) := by
  induction failing generalizing s n with
  | nil =>
    obtain ⟨n, rfl⟩ : ∃ k, n = k + 1 := ⟨n - 1, by simp at hn; omega⟩
    simp only [List.nil_append] at hd ⊢
    simp only [pollStatus, readReg_pending _ s met rest hd]
    rw [if_pos hm]
    rfl
  | cons f fs ih =>
    obtain ⟨n, rfl⟩ : ∃ k, n = k + 1 := ⟨n - 1, by simp at hn; omega⟩
    have hf0 : ¬ StatusMet s.cfg mask f := hf f (by simp)
    simp only [List.cons_append] at hd
    simp only [pollStatus, readReg_pending _ s f _ hd, hf0, if_false]
    exact ih n (afterRead s.cfg.regStatusCmd f s) (by simp [afterRead, hd]) (by simpa using hn)
      (fun st hst => hf st (by simp [hst])) hm

/-- The poll of `waitForStatus` on given answers, when it times out. -/
theorem pollStatus_timeout (mask : Byte) (answers rest : List Byte) (s : State)
    (hd : s.driveIn = answers ++ rest) (hf : ∀ st ∈ answers, ¬ StatusMet s.cfg mask st) :
    pollStatus mask answers.length s =
      (afterReads s.cfg.regStatusCmd answers s, .timeout) := by
  induction answers generalizing s with
  | nil => rfl
  | cons f fs ih =>
    have hf0 : ¬ StatusMet s.cfg mask f := hf f (by simp)
    simp only [List.cons_append] at hd
    simp only [List.length_cons, pollStatus, readReg_pending _ s f _ hd, hf0, if_false]
    exact ih (afterRead s.cfg.regStatusCmd f s) (by simp [afterRead, hd])
      (fun st hst => hf st (by simp [hst]))

/-- The state after a status wait that reads the given answers. -/
def afterWait (answers : List Byte) (r : WaitResult) (s : State) : State :=
  { afterReads s.cfg.regStatusCmd answers s with log := waitLog r ++ s.log }

theorem busOnly_afterWait (answers : List Byte) (r : WaitResult) (s : State) :
    BusOnly s (afterWait answers r s) := by
  have h := busOnly_afterReads s.cfg.regStatusCmd answers s
  unfold BusOnly at *
  unfold afterWait
  conv_lhs => rw [h]

/-- The trace, the pending answers, the log and the write side of the bus after a status wait. -/
theorem afterWait_fields (answers : List Byte) (r : WaitResult) (s : State) :
    (afterWait answers r s).events =
        (readsTrace s.cfg.regStatusCmd answers).reverse ++ s.events ∧
      (afterWait answers r s).driveIn = s.driveIn.drop answers.length ∧
      (afterWait answers r s).log = waitLog r ++ s.log ∧
      (afterWait answers r s).wrState = s.wrState ∧ (afterWait answers r s).dout = s.dout ∧
      (afterWait answers r s).doutWritten = s.doutWritten := by
  have h := afterReads_fields s.cfg.regStatusCmd answers s
  exact ⟨h.1, h.2.1, rfl, h.2.2.2⟩

/-- A status wait on given answers. -/
theorem waitStatus_run (mask : Byte) (answers rest : List Byte) (r : WaitResult) (s : State)
    (hd : s.driveIn = answers ++ rest) (hr : WaitRun s.cfg mask answers r) :
    waitStatus mask s = (afterWait answers r s, r) := by
  have hlog := (afterReads_fields s.cfg.regStatusCmd answers s).2.2.1
  cases r with
  | ok =>
    obtain ⟨hn, failing, met, rfl, hf, hm⟩ := hr
    have hp := pollStatus_ok mask met failing rest s.cfg.statusTimeoutPolls s (by simpa using hd)
      (by simp at hn; omega) hf hm
    simp only [waitStatus, hp, afterWait, waitLog, List.nil_append]
    rw [← hlog]
  | timeout =>
    obtain ⟨hn, hf⟩ := hr
    have hp := pollStatus_timeout mask answers rest s hd hf
    rw [hn] at hp
    simp only [waitStatus, hp, afterWait, waitLog, reportError, logEvent, hlog,
      List.singleton_append]

/-- The ready-wait on given answers, when it finds the drive ready. -/
theorem readyWait_ready (answers rest : List Byte) (s : State)
    (hd : s.driveIn = answers ++ rest) (hr : ReadyRun s.cfg answers) :
    readyWait s.cfg.initReadyPolls s = (afterReads s.cfg.regStatusCmd answers s, true) := by
  obtain ⟨hn, failing, ready, rfl, hf, hm⟩ := hr
  have key : ∀ (failing : List Byte) (n : Nat) (s : State),
      s.driveIn = failing ++ ready :: rest → failing.length < n →
      (∀ st ∈ failing, ¬ DriveReady s.cfg st) → DriveReady s.cfg ready →
      readyWait n s = (afterReads s.cfg.regStatusCmd (failing ++ [ready]) s, true) := by
    intro failing
    induction failing with
    | nil =>
      intro n s hd hn _ hm
      obtain ⟨n, rfl⟩ : ∃ k, n = k + 1 := ⟨n - 1, by simp at hn; omega⟩
      simp only [List.nil_append] at hd ⊢
      simp only [readyWait, readReg_pending _ s ready rest hd]
      rw [if_pos hm]
      rfl
    | cons f fs ih =>
      intro n s hd hn hf hm
      obtain ⟨n, rfl⟩ : ∃ k, n = k + 1 := ⟨n - 1, by simp at hn; omega⟩
      have hf0 : ¬ DriveReady s.cfg f := hf f (by simp)
      simp only [List.cons_append] at hd
      simp only [readyWait, readReg_pending _ s f _ hd, hf0, if_false]
      exact ih n (afterRead s.cfg.regStatusCmd f s) (by simp [afterRead, hd]) (by simpa using hn)
        (fun st hst => hf st (by simp [hst])) hm
  exact key failing _ s (by simpa using hd) (by simp at hn; omega) hf hm

/-- The ready-wait on given answers, when it gives up. -/
theorem readyWait_notReady (answers rest : List Byte) (s : State)
    (hd : s.driveIn = answers ++ rest) (hr : NotReadyRun s.cfg answers) :
    readyWait s.cfg.initReadyPolls s = (afterReads s.cfg.regStatusCmd answers s, false) := by
  obtain ⟨hn, hf⟩ := hr
  rw [← hn]
  clear hn
  induction answers generalizing s with
  | nil => rfl
  | cons f fs ih =>
    have hf0 : ¬ DriveReady s.cfg f := hf f (by simp)
    simp only [List.cons_append] at hd
    simp only [List.length_cons, readyWait, readReg_pending _ s f _ hd, hf0, if_false]
    exact ih (afterRead s.cfg.regStatusCmd f s) (by simp [afterRead, hd])
      (fun st hst => hf st (by simp [hst]))

theorem afterRead_events_length (a : RegAddr) (v : Byte) (s : State) :
    (afterRead a v s).events.length = s.events.length + 6 := by
  simp [afterRead, readTrace]

theorem afterWrite_events_length (a : RegAddr) (v : Byte) (s : State) :
    (afterWrite a v s).events.length = s.events.length + 6 := by
  simp [afterWrite, writeTrace]

/-- The poll makes at most `n` reads. -/
theorem pollStatus_events_length (mask : Byte) (n : Nat) (s : State) :
    (pollStatus mask n s).1.events.length ≤ s.events.length + 6 * n := by
  induction n generalizing s with
  | zero => simp [pollStatus]
  | succ n ih =>
    have h := afterRead_events_length s.cfg.regStatusCmd (readReg s.cfg.regStatusCmd s).2 s
    rw [← readReg_state] at h
    simp only [pollStatus]
    split
    · simp only; omega
    · have := ih (readReg s.cfg.regStatusCmd s).1
      omega

theorem waitStatus_events_length (mask : Byte) (s : State) :
    (waitStatus mask s).1.events.length ≤ s.events.length + 6 * s.cfg.statusTimeoutPolls := by
  have h := pollStatus_events_length mask s.cfg.statusTimeoutPolls s
  simp only [waitStatus]
  split <;> simpa using h

theorem readyWait_events_length (n : Nat) (s : State) :
    (readyWait n s).1.events.length ≤ s.events.length + 6 * n := by
  induction n generalizing s with
  | zero => simp [readyWait]
  | succ n ih =>
    have h := afterRead_events_length s.cfg.regStatusCmd (readReg s.cfg.regStatusCmd s).2 s
    rw [← readReg_state] at h
    simp only [readyWait]
    split
    · simp only; omega
    · have := ih (readReg s.cfg.regStatusCmd s).1
      omega

end Sys2Proof.Machine
end

