-- ==== Sys2Proof/Laws/Frame.lean ====
section
/-! SUPPORT. What each shared operation leaves unchanged, that it keeps the strobes idle, and that its bus events
account for the latches. -/

namespace Sys2Proof.Machine

open Sys2Proof

/-- An operation that goes over the bus only, leaves no strobe asserted that was not, and whose bus events account
for the latches. -/
structure BusStep (s t : State) : Prop where
  only : BusOnly s t
  idle : s.StrobesIdle → t.StrobesIdle
  latches : LatchStep s t

theorem BusStep.refl (s : State) : BusStep s s :=
  ⟨BusOnly.refl s, id, LatchStep.refl s⟩

theorem BusStep.trans {s t u : State} (h₁ : BusStep s t) (h₂ : BusStep t u) : BusStep s u :=
  ⟨h₁.only.trans h₂.only, h₂.idle ∘ h₁.idle, h₁.latches.trans h₂.latches⟩

theorem busStep_readReg (a : RegAddr) (s : State) : BusStep s (readReg a s).1 :=
  ⟨busOnly_readReg a s, fun h => ⟨by simp [readReg_state, afterRead], h.wrIdle⟩,
    latchStep_readReg a s⟩

theorem busStep_writeReg (a : RegAddr) (v : Byte) (s : State) : BusStep s (writeReg a v s) :=
  ⟨busOnly_writeReg a v s, fun h => ⟨h.rdIdle, by simp [writeReg_state, afterWrite]⟩,
    latchStep_writeReg a v s⟩

theorem busStep_issueCommand (v : Byte) (s : State) : BusStep s (issueCommand v s) :=
  busStep_writeReg _ v s

theorem busStep_reportError (sev : Severity) (k : LogKind) (s : State) :
    BusStep s (reportError sev k s) :=
  ⟨busOnly_reportError sev k s, fun h => ⟨h.rdIdle, h.wrIdle⟩, LatchStep.refl s⟩

theorem busStep_pollStatus (mask : Byte) (n : Nat) (s : State) :
    BusStep s (pollStatus mask n s).1 := by
  induction n generalizing s with
  | zero => exact BusStep.refl s
  | succ n ih =>
    simp only [pollStatus]
    split
    · exact busStep_readReg _ s
    · exact (busStep_readReg _ s).trans (ih _)

theorem busStep_waitStatus (mask : Byte) (s : State) : BusStep s (waitStatus mask s).1 := by
  have h := busStep_pollStatus mask s.cfg.statusTimeoutPolls s
  simp only [waitStatus]
  split
  · exact h
  · exact h.trans (busStep_reportError _ _ _)

theorem busStep_readyWait (n : Nat) (s : State) : BusStep s (readyWait n s).1 := by
  induction n generalizing s with
  | zero => exact BusStep.refl s
  | succ n ih =>
    simp only [readyWait]
    split
    · exact busStep_readReg _ s
    · exact (busStep_readReg _ s).trans (ih _)

theorem busStep_selectAddressing (p : Bool) (s : State) :
    BusStep s (selectAddressing p s).1 := by
  unfold selectAddressing
  have h := ((((busStep_writeReg s.cfg.regDriveHead lbaDrive0 s).trans
    (busStep_issueCommand s.cfg.ataInitParams _)).trans (busStep_waitStatus 0x00 _)).trans
    (busStep_readReg s.cfg.regDriveHead _))
  cases p
  · exact BusStep.refl s
  · simp only [if_true]
    have hc : ∀ u, BusOnly s u → u.cfg = s.cfg := fun u hu => hu.cfg
    split
    · rw [hc _ (((busOnly_writeReg _ _ s).trans (busOnly_issueCommand _ _)).trans
        (busOnly_waitStatus 0x00 _))]
      exact h
    · rw [hc _ (((busOnly_writeReg _ _ s).trans (busOnly_issueCommand _ _)).trans
        (busOnly_waitStatus 0x00 _))]
      exact h.trans (busStep_reportError _ _ _)

theorem busStep_selectEightBit (s : State) : BusStep s (selectEightBit s).1 :=
  (((busStep_writeReg _ _ s).trans (busStep_issueCommand _ _)).trans
    (busStep_waitStatus 0x00 _)).trans (busStep_readReg _ _)

/-- The candidate mode is never `NotInitialized`. -/
theorem selectAddressing_mode (p : Bool) (s : State) :
    (selectAddressing p s).2 ≠ .notInitialized := by
  unfold selectAddressing
  cases p
  · simp
  · simp only [if_true]; split <;> simp

/-- Stages S3 to S5: only the bus and, on success, `MODE` change; the result is the new mode when there was
none before. -/
theorem configureDrive_frame (p : Bool) (s : State) (h : s.mode = .notInitialized) :
    BusStep { s with mode := (configureDrive p s).2 } (configureDrive p s).1 := by
  have h2 := (busStep_selectAddressing p s).trans (busStep_selectEightBit _)
  unfold configureDrive
  simp only
  split
  · have := h2.trans (busStep_reportError .error .transferModeUnsupported _)
    simpa only [← h] using this
  · refine ⟨?_, fun hi => ?_, h2.latches⟩
    · have := h2.only
      unfold BusOnly at this ⊢
      conv_lhs => rw [this]
    · have := h2.idle ⟨hi.rdIdle, hi.wrIdle⟩
      exact ⟨this.rdIdle, this.wrIdle⟩

theorem busStep_busSetup (s : State) : BusStep { s with busResolved := true } (busSetup s) :=
  ⟨rfl, fun _ => ⟨by simp [busSetup], by simp [busSetup]⟩,
    (latchStep_driveStrobe _ _ _).trans (latchStep_driveStrobe _ _ _)⟩

theorem BusStep.withMode {s t : State} (h : BusStep s t) (m : Mode) :
    BusStep { s with mode := m } { t with mode := m } := by
  refine ⟨?_, fun hi => ?_, h.latches⟩
  · have := h.only
    unfold BusOnly at this ⊢
    conv_lhs => rw [this]
  · have := h.idle ⟨hi.rdIdle, hi.wrIdle⟩
    exact ⟨this.rdIdle, this.wrIdle⟩

theorem BusStep.mode {s t : State} (h : BusStep s t) : t.mode = s.mode := h.only.mode

theorem State.with_mode_self (s : State) (m : Mode) (h : s.mode = m) : { s with mode := m } = s := by
  subst h; rfl

/-- The handshake: only the bus, `BUS_RESOLVED` and `MODE` change. -/
theorem handshake_frame (p : Bool) (s : State) (h : s.mode = .notInitialized) :
    BusStep { s with busResolved := true, mode := (handshake p s).2 } (handshake p s).1 := by
  have h1 := (busStep_busSetup s).trans (busStep_readReg (busSetup s).cfg.regStatusCmd (busSetup s))
  have h2 := h1.trans (busStep_readyWait
    (readReg (busSetup s).cfg.regStatusCmd (busSetup s)).1.cfg.initReadyPolls _)
  unfold handshake
  simp only
  split
  · have := h1.trans (busStep_reportError .error .driveAbsent _)
    simpa only [← h] using this
  · split
    · have hm := h2.mode
      have hc := configureDrive_frame p _ (hm.trans h)
      exact (h2.withMode _).trans hc
    · have := h2.trans (busStep_reportError .error .initTimeout _)
      simpa only [← h] using this

/-- `initialize` changes only the bus, `BUS_RESOLVED` and `MODE`; its result is the mode after. -/
theorem initDrive_frame (p : Bool) (s : State) :
    BusStep { s with busResolved := (initDrive p s).1.busResolved, mode := (initDrive p s).2 }
      (initDrive p s).1 := by
  unfold initDrive
  split
  · next h =>
    have hf := handshake_frame p s h
    have hb := hf.only.fields.2.1
    simp only at hb
    rw [hb]
    exact hf
  · next h => simpa only [← h] using BusStep.refl s
  · next h => simpa only [← h] using BusStep.refl s

/-- `MODE`, once set, stays; `BUS_RESOLVED`, once true, stays (R46 c, f). -/
theorem initDrive_sticky (p : Bool) (s : State) :
    (s.mode ≠ .notInitialized → (initDrive p s).1 = s ∧ (initDrive p s).2 = s.mode) ∧
      (s.mode = .notInitialized → (initDrive p s).1.busResolved = true) := by
  unfold initDrive
  constructor
  · intro h
    split
    · next h' => exact absurd h' h
    · next h' => exact ⟨rfl, h'.symm⟩
    · next h' => exact ⟨rfl, h'.symm⟩
  · intro h
    simp only [h]
    exact (handshake_frame p s h).only.fields.2.1

/-- A step that goes over the bus and may store to host memory. -/
structure DataStep (s t : State) : Prop where
  only : BusOnly { s with hostMem := t.hostMem } t
  idle : s.StrobesIdle → t.StrobesIdle
  latches : LatchStep s t

theorem DataStep.refl (s : State) : DataStep s s :=
  ⟨BusOnly.refl s, id, LatchStep.refl s⟩

theorem BusStep.data {s t : State} (h : BusStep s t) : DataStep s t := by
  refine ⟨?_, h.idle, h.latches⟩
  rw [h.only.hostMem]
  exact h.only

theorem DataStep.trans {s t u : State} (h₁ : DataStep s t) (h₂ : DataStep t u) : DataStep s u := by
  refine ⟨?_, h₂.idle ∘ h₁.idle, h₁.latches.trans h₂.latches⟩
  have a := h₁.only
  have b := h₂.only
  unfold BusOnly at *
  rw [b, a]

theorem dataStep_storeByte (a : Nat) (v : Byte) (s : State) : DataStep s (storeByte a v s) :=
  ⟨rfl, fun h => ⟨h.rdIdle, h.wrIdle⟩, LatchStep.refl s⟩

theorem dataStep_readData (a n : Nat) (s : State) : DataStep s (readData a n s) := by
  induction n generalizing a s with
  | zero => exact DataStep.refl s
  | succ n ih =>
    exact ((busStep_readReg _ s).data.trans (dataStep_storeByte _ _ _)).trans (ih _ _)

theorem busStep_writeData (a n : Nat) (s : State) : BusStep s (writeData a n s) := by
  induction n generalizing a s with
  | zero => exact BusStep.refl s
  | succ n ih => exact (busStep_writeReg _ _ s).trans (ih _ _)

theorem busStep_loadAddrRead (sec : Sector) (s : State) : BusStep s (loadAddrRead sec s) :=
  (((busStep_writeReg _ _ s).trans (busStep_writeReg _ _ _)).trans (busStep_writeReg _ _ _)).trans
    (busStep_writeReg _ _ _)

theorem busStep_loadAddrWrite (sec : Sector) (s : State) : BusStep s (loadAddrWrite sec s) :=
  ((((busStep_writeReg _ _ s).trans (busStep_writeReg _ _ _)).trans
    (busStep_writeReg _ _ _)).trans (busStep_readReg _ _)).trans (busStep_writeReg _ _ _)

theorem dataStep_sectorIn (sec : Sector) (size : Nat) (buf : Buffer) (s : State) :
    DataStep s (sectorIn sec size buf s).1 := by
  have h := ((busStep_loadAddrRead sec s).trans (busStep_issueCommand s.cfg.ataRead _)).trans
    (busStep_waitStatus (issueCommand s.cfg.ataRead (loadAddrRead sec s)).cfg.stDrq _)
  unfold sectorIn
  simp only
  split
  · exact (h.trans (busStep_reportError _ _ _)).data
  · exact h.data.trans (dataStep_readData _ _ _)

theorem busStep_sectorOut (sec : Sector) (buf : Buffer) (s : State) :
    BusStep s (sectorOut sec buf s).1 := by
  have h := ((busStep_loadAddrWrite sec s).trans (busStep_issueCommand s.cfg.ataWrite _)).trans
    (busStep_waitStatus (issueCommand s.cfg.ataWrite (loadAddrWrite sec s)).cfg.stDrq _)
  unfold sectorOut
  simp only
  split
  · exact h.trans (busStep_reportError _ _ _)
  · refine h.trans ?_
    generalize sectorSize = n
    exact busStep_writeData _ n _

theorem DataStep.rcur {s t : State} (h : DataStep s t) : t.rcur = s.rcur := h.only.fields.2.2.1

theorem BusStep.wcur {s t : State} (h : BusStep s t) : t.wcur = s.wcur := h.only.fields.2.2.2.1

/-- `readMultiple` changes only the bus, host memory and `RCUR`, which advances whatever the result. -/
theorem multipleIn_frame (sec : Sector) (buf : Buffer) (s : State) :
    DataStep { s with rcur := (s.rcur.anchored sec).advanced } (multipleIn sec buf s).1 := by
  have h := dataStep_sectorIn (s.rcur.anchored sec).current sectorSize buf
    { s with rcur := s.rcur.anchored sec }
  have hr := h.rcur
  refine ⟨?_, fun hi => ?_, h.latches⟩
  · have a := h.only
    unfold BusOnly at a ⊢
    simp only [multipleIn]
    rw [hr]
    conv_lhs => rw [a]
  · have := h.idle ⟨hi.rdIdle, hi.wrIdle⟩
    exact ⟨this.rdIdle, this.wrIdle⟩

/-- `writeMultiple` changes only the bus and `WCUR`. -/
theorem multipleOut_frame (sec : Sector) (buf : Buffer) (s : State) :
    BusStep { s with wcur := (s.wcur.anchored sec).advanced } (multipleOut sec buf s).1 := by
  have h := busStep_sectorOut (s.wcur.anchored sec).current buf
    { s with wcur := s.wcur.anchored sec }
  have hr := h.wcur
  refine ⟨?_, fun hi => ?_, h.latches⟩
  · have a := h.only
    unfold BusOnly at a ⊢
    simp only [multipleOut]
    rw [hr]
    conv_lhs => rw [a]
  · have := h.idle ⟨hi.rdIdle, hi.wrIdle⟩
    exact ⟨this.rdIdle, this.wrIdle⟩

/-- Host memory outside the bytes read is unchanged, and the canonical form is kept. -/
theorem readData_mem (a n : Nat) (s : State) :
    (∀ b, (b < a ∨ a + n ≤ b) → (readData a n s).hostMem.read b = s.hostMem.read b) ∧
      (s.hostMem.Wf → (readData a n s).hostMem.Wf) := by
  induction n generalizing a s with
  | zero => exact ⟨fun _ _ => rfl, id⟩
  | succ n ih =>
    obtain ⟨h1, h2⟩ := ih (a + 1) (storeByte a (readReg s.cfg.regData s).2 (readReg s.cfg.regData s).1)
    refine ⟨fun b hb => ?_, fun hw => h2 (Memory.wf_write _ _ _ hw)⟩
    rw [readData, h1 b (by omega)]
    exact Memory.read_write_other _ _ _ _ (by omega)

theorem sectorIn_mem (sec : Sector) (size : Nat) (buf : Buffer) (s : State) :
    (∀ b, (b < buf.base.toNat ∨ buf.base.toNat + size ≤ b) →
      (sectorIn sec size buf s).1.hostMem.read b = s.hostMem.read b) ∧
      (s.hostMem.Wf → (sectorIn sec size buf s).1.hostMem.Wf) := by
  have h := ((busStep_loadAddrRead sec s).trans (busStep_issueCommand s.cfg.ataRead _)).trans
    (busStep_waitStatus (issueCommand s.cfg.ataRead (loadAddrRead sec s)).cfg.stDrq _)
  have hm := h.only.hostMem
  unfold sectorIn
  simp only
  split
  · rw [reportError_hostMem, hm]
    exact ⟨fun _ _ => rfl, id⟩
  · have := readData_mem (bufAddr buf 0) size (waitStatus (issueCommand s.cfg.ataRead
      (loadAddrRead sec s)).cfg.stDrq (issueCommand s.cfg.ataRead (loadAddrRead sec s))).1
    rw [hm] at this
    simpa [bufAddr] using this

end Sys2Proof.Machine
end

