-- ==== Sys2Proof/Laws/Stream.lean ====
section
/-! SUPPORT. The decoder and the dispatcher: what they change, the frame they rebuild, the emission step. -/

namespace Sys2Proof.Machine

open Sys2Proof

/-- The three classes of a stream byte exclude each other. -/
theorem not_token_of_commandByte (b : Byte) (h : IsCommandByte b) : ¬ IsToken b := by
  revert h; revert b; decide

theorem commandByte_isCommandByte (cmd : CmdCode) : IsCommandByte (commandByte cmd) := by
  revert cmd; decide

theorem commandCode_commandByte (cmd : CmdCode) : commandCode (commandByte cmd) = cmd := by
  revert cmd; decide

theorem commandByte_commandCode (b : Byte) (h : IsCommandByte b) :
    commandByte (commandCode b) = b := by
  revert h; revert b; decide

/-- Shifting a byte in: the low three bytes move up, the new byte is the lowest (R93). -/
theorem shiftIn_eq (arg : CmdArg) (b : Byte) : shiftIn arg b = arg.extractLsb' 0 24 ++ b := by
  apply BitVec.eq_of_getLsbD_eq
  intro i hi
  simp only [shiftIn, BitVec.getLsbD_or, BitVec.getLsbD_shiftLeft, BitVec.getLsbD_setWidth,
    BitVec.getLsbD_append, BitVec.getLsbD_extractLsb']
  by_cases h : i < 8
  · simp [h, hi]
  · have h1 : i - 8 < 24 := by omega
    have h2 : b.getLsbD i = false := BitVec.getLsbD_of_ge b i (by omega)
    simp [h, hi, h1, h2]

/-- Four bytes shifted into a zero argument are the argument, first byte most significant (R65, R93). -/
theorem shiftIn_four (b1 b2 b3 b4 : Byte) :
    shiftIn (shiftIn (shiftIn (shiftIn 0 b1) b2) b3) b4 = join32 b1 b2 b3 b4 := by
  apply BitVec.eq_of_getLsbD_eq
  intro i hi
  simp only [shiftIn, join32, BitVec.getLsbD_or, BitVec.getLsbD_shiftLeft,
    BitVec.getLsbD_setWidth, BitVec.getLsbD_append]
  by_cases h1 : i < 8
  · simp [h1, hi]
  · have e1 : b4.getLsbD i = false := BitVec.getLsbD_of_ge b4 i (by omega)
    by_cases h2 : i - 8 < 8
    · have : i - 8 < 32 := by omega
      simp [h1, h2, hi, e1, this]
    · have e2 : b3.getLsbD (i - 8) = false := BitVec.getLsbD_of_ge b3 _ (by omega)
      by_cases h3 : i - 8 - 8 < 8
      · have h32 : i - 8 < 32 := by omega
        have h33 : i - 8 - 8 < 32 := by omega
        simp [h1, h2, h3, hi, e1, e2, h32, h33]
      · have e3 : b2.getLsbD (i - 8 - 8) = false := BitVec.getLsbD_of_ge b2 _ (by omega)
        have h32 : i - 8 < 32 := by omega
        have h33 : i - 8 - 8 < 32 := by omega
        have h34 : i - 8 - 8 - 8 < 32 := by omega
        simp [h1, h2, h3, hi, e1, e2, e3, h32, h33, h34]

theorem join32_extract (v : BitVec 32) :
    join32 (v.extractLsb' 24 8) (v.extractLsb' 16 8) (v.extractLsb' 8 8) (v.extractLsb' 0 8) = v := by
  apply BitVec.eq_of_getLsbD_eq
  intro i hi
  simp only [join32, BitVec.getLsbD_append, BitVec.getLsbD_extractLsb']
  by_cases h1 : i < 8
  · simp [h1]
  · by_cases h2 : i - 8 < 8
    · simp [h1, h2]; congr 1; omega
    · by_cases h3 : i - 8 - 8 < 8
      · simp [h1, h2, h3]; congr 1; omega
      · have h4 : i - 8 - 8 - 8 < 8 := by omega
        simp [h1, h2, h3, h4]; congr 1; omega

theorem join16_extract (v : BitVec 16) : join16 (v.extractLsb' 8 8) (v.extractLsb' 0 8) = v := by
  apply BitVec.eq_of_getLsbD_eq
  intro i hi
  simp only [join16, BitVec.getLsbD_append, BitVec.getLsbD_extractLsb']
  by_cases h1 : i < 8
  · simp [h1]
  · have h2 : i - 8 < 8 := by omega
    simp [h1, h2]; congr 1; omega

/-- The decoder's registers and the transfer-session flags may differ; nothing else. -/
def StreamOnly (s t : State) : Prop :=
  t = { s with
    argPos := t.argPos, cmd := t.cmd, arg := t.arg, readInProgress := t.readInProgress,
    writeInProgress := t.writeInProgress, sectorsWritten := t.sectorsWritten }

theorem StreamOnly.refl (s : State) : StreamOnly s s := rfl

theorem StreamOnly.trans {s t u : State} (h₁ : StreamOnly s t) (h₂ : StreamOnly t u) :
    StreamOnly s u := by
  unfold StreamOnly at *; rw [h₂, h₁]

theorem streamOnly_consume (b : Byte) (s : State) : StreamOnly s (consume b s) := by
  unfold consume takeToken
  repeat' split
  all_goals rfl

theorem streamOnly_consumeAll (bs : List Byte) (s : State) : StreamOnly s (consumeAll bs s) := by
  induction bs generalizing s with
  | nil => exact StreamOnly.refl s
  | cons b bs ih => exact (streamOnly_consume b s).trans (ih _)

/-- `ARGPOS` stays at most 5 (R46 d). -/
theorem consume_argPos (b : Byte) (s : State) (h : s.argPos ≤ 5) : (consume b s).argPos ≤ 5 := by
  unfold consume takeToken
  repeat' split
  all_goals first
    | exact h
    | (simp only [openFrame_argPos, takeArgByte_argPos, closeFrame_argPos]; omega)

theorem consumeAll_argPos (bs : List Byte) (s : State) (h : s.argPos ≤ 5) :
    (consumeAll bs s).argPos ≤ 5 := by
  induction bs generalizing s with
  | nil => exact h
  | cons b bs ih => exact ih _ (consume_argPos b s h)

/-- A command byte between frames opens a frame (R224). -/
theorem consume_commandByte (b : Byte) (s : State) (hp : s.argPos = 0) (hb : IsCommandByte b) :
    consume b s = openFrame b s := by
  have ht := not_token_of_commandByte b hb
  unfold consume
  rw [if_neg (fun h => ht h.2), if_pos ⟨hp, hb⟩]

/-- A byte inside a frame, before the checksum, is an argument byte (R225). -/
theorem consume_argByte (b : Byte) (s : State) (h1 : 1 ≤ s.argPos) (h4 : s.argPos ≤ 4) :
    consume b s = takeArgByte b s := by
  have hp : s.argPos ≠ 0 := by omega
  unfold consume
  rw [if_neg (fun h => hp h.1), if_neg (fun h => hp h.1), if_pos h4]

/-- The byte at position 5 is the checksum (R226). -/
theorem consume_checksum (b : Byte) (s : State) (h : s.argPos = 5) :
    consume b s = closeFrame s := by
  have hp : s.argPos ≠ 0 := by omega
  have h4 : ¬ s.argPos ≤ 4 := by omega
  unfold consume
  rw [if_neg (fun h => hp h.1), if_neg (fun h => hp h.1), if_neg h4]

/-- Six bytes from position 0 rebuild command code and argument, and return to position 0 (R229 a). -/
theorem consumeAll_frame (b0 b1 b2 b3 b4 k : Byte) (s : State) (hp : s.argPos = 0)
    (hb : IsCommandByte b0) :
    consumeAll [b0, b1, b2, b3, b4, k] s =
      { s with cmd := commandCode b0, arg := join32 b1 b2 b3 b4 } := by
  simp only [consumeAll]
  rw [consume_commandByte b0 s hp hb]
  rw [consume_argByte b1 _ (by simp) (by simp)]
  rw [consume_argByte b2 _ (by simp) (by simp)]
  rw [consume_argByte b3 _ (by simp) (by simp)]
  rw [consume_argByte b4 _ (by simp) (by simp)]
  rw [consume_checksum k _ (by simp)]
  simp only [closeFrame, takeArgByte, openFrame]
  rw [shiftIn_four, ← hp]

/-- The bytes of a frame deliver its code and its argument. -/
theorem consumeAll_frameBytes (cmd : CmdCode) (arg : CmdArg) (crc : Byte) (s : State)
    (hp : s.argPos = 0) :
    consumeAll (frameBytes cmd arg crc) s = { s with cmd := cmd, arg := arg } := by
  have h := consumeAll_frame (commandByte cmd) (arg.extractLsb' 24 8) (arg.extractLsb' 16 8)
    (arg.extractLsb' 8 8) (arg.extractLsb' 0 8) crc s hp (commandByte_isCommandByte cmd)
  rw [commandCode_commandByte, join32_extract] at h
  exact h

@[simp] theorem PerEntry.get_of {α : Type} (f : Entry → α) (e : Entry) :
    (PerEntry.of f).get e = f e := by cases e <;> rfl

theorem PerEntry.get_set {α : Type} (p : PerEntry α) (e e' : Entry) (v : α) :
    (p.set e v).get e' = if e = e' then v else p.get e' := by cases e <;> cases e' <;> rfl

@[simp] theorem PerEntry.get_set_self {α : Type} (p : PerEntry α) (e : Entry) (v : α) :
    (p.set e v).get e = v := by rw [PerEntry.get_set, if_pos rfl]

@[simp] theorem PerEntry.set_set {α : Type} (p : PerEntry α) (e : Entry) (v w : α) :
    (p.set e v).set e w = p.set e w := by cases e <;> rfl

@[simp] theorem PerEntry.set_get {α : Type} (p : PerEntry α) (e : Entry) :
    p.set e (p.get e) = p := by cases e <;> rfl

theorem Entry.mem_all (e : Entry) : e ∈ Entry.all := by cases e <;> decide

theorem Config.Wf.row {c : Config} (h : c.Wf) (e : Entry) : RespRowWf (c.resp.get e) :=
  h.2.2.2.1 e (Entry.mem_all e)

theorem Config.Wf.respLen_pos {c : Config} (h : c.Wf) (e : Entry) : 1 ≤ c.respLen e := by
  have hr := Config.Wf.row h e
  unfold Config.respLen
  revert hr
  cases c.resp.get e with
  | nil => exact False.elim
  | cons l ps => exact fun hr => hr.1

/-- The cursor of an entry after an emission step. -/
def nextCount (c : Config) (e : Entry) (k : Nat) : Nat :=
  if k + 1 = c.respLen e then 0 else k + 1

/-- The emission step (R240). -/
theorem emit_state (e : Entry) (s : State) :
    (emit e s).state = { s with count := s.count.set e (nextCount s.cfg e (s.count.get e)) } := by
  simp [emit, nextCount]

theorem emit_byte (e : Entry) (s : State) :
    (emit e s).byte = respByte s.cfg e (s.count.get e + 1) := rfl

theorem emit_done (e : Entry) (s : State) :
    (emit e s).done = decide (s.count.get e + 1 = s.cfg.respLen e) := by
  by_cases h : s.count.get e + 1 = s.cfg.respLen e <;> simp [emit, h]

/-- Every emission cursor stays below its entry's length (R46 e). -/
theorem emit_countBound (e : Entry) (s : State) (hw : s.cfg.Wf)
    (h : ∀ e', s.count.get e' < s.cfg.respLen e') (e' : Entry) :
    (emit e s).state.count.get e' < s.cfg.respLen e' := by
  rw [emit_state]
  simp only [PerEntry.get_set, nextCount]
  by_cases he : e = e'
  · subst he
    have := h e
    have := Config.Wf.respLen_pos hw e
    rw [if_pos rfl]
    split <;> omega
  · rw [if_neg he]; exact h e'

/-- A response arm may change the bus, `MODE`, `BUS_RESOLVED`, the emission cursors, `SECTORS_WRITTEN`
and the log; nothing else. -/
structure ResponseStep (s t : State) : Prop where
  only : t = { s with
    rdState := t.rdState, wrState := t.wrState, dir := t.dir, dout := t.dout,
    doutWritten := t.doutWritten, addr := t.addr, addrWritten := t.addrWritten,
    driveIn := t.driveIn, events := t.events, log := t.log, mode := t.mode,
    busResolved := t.busResolved, count := t.count, sectorsWritten := t.sectorsWritten }
  idle : s.StrobesIdle → t.StrobesIdle
  counts : s.cfg.Wf → (∀ e, s.count.get e < s.cfg.respLen e) →
    ∀ e, t.count.get e < s.cfg.respLen e
  sticky : s.mode ≠ .notInitialized → t.mode = s.mode
  resolved : s.busResolved = true → t.busResolved = true
  latches : LatchStep s t

theorem ResponseStep.trans {s t u : State} (h₁ : ResponseStep s t) (h₂ : ResponseStep t u) :
    ResponseStep s u where
  only := by
    have a := h₁.only
    have b := h₂.only
    rw [b, a]
  idle := h₂.idle ∘ h₁.idle
  counts := by
    intro hw hc
    have hcfg : t.cfg = s.cfg := by rw [h₁.only]
    have := h₂.counts (hcfg ▸ hw)
    rw [hcfg] at this
    exact this (h₁.counts hw hc)
  sticky := fun h => by
    have h1 := h₁.sticky h
    rw [h₂.sticky (by rwa [h1]), h1]
  resolved := h₂.resolved ∘ h₁.resolved
  latches := h₁.latches.trans h₂.latches

theorem ResponseStep.refl (s : State) : ResponseStep s s :=
  ⟨rfl, id, fun _ h => h, fun _ => rfl, id, LatchStep.refl s⟩

theorem responseStep_emit (e : Entry) (s : State) : ResponseStep s (emit e s).state :=
  ⟨by rw [emit_state], fun h => ⟨h.rdIdle, h.wrIdle⟩, emit_countBound e s, fun _ => rfl, id,
    LatchStep.refl s⟩

theorem responseStep_initDrive (p : Bool) (s : State) : ResponseStep s (initDrive p s).1 := by
  have hf := initDrive_frame p s
  have hs := initDrive_sticky p s
  have ho := hf.only
  refine ⟨?_, fun h => hf.idle ⟨h.rdIdle, h.wrIdle⟩, ?_, ?_, ?_, hf.latches⟩
  · have hf := ho.fields
    simp only at hf
    obtain ⟨_, _, h3, h4, h5, h6, h7, h8, h9, h10, h11, h12, h13, h14, h15⟩ := hf
    ext1 <;> simp only [h3, h4, h5, h6, h7, h8, h9, h12, h13, h14, h15]
  · intro _ h
    rw [ho.fields.2.2.2.2.2.2.2.2.2.2.1]
    exact h
  · intro h
    rw [(hs.1 h).1]
  · intro h
    by_cases hm : s.mode = .notInitialized
    · exact hs.2 hm
    · rw [(hs.1 hm).1]; exact h

theorem responseStep_clear (s : State) : ResponseStep s (clearSectorsWritten s) :=
  ⟨rfl, fun h => ⟨h.rdIdle, h.wrIdle⟩, fun _ h => h, fun _ => rfl, id, LatchStep.refl s⟩

theorem responseStep_emitClosing (e : Entry) (s : State) : ResponseStep s (emitClosing e s).1 := by
  simp only [emitClosing]
  split
  · exact (responseStep_emit e s).trans (responseStep_clear _)
  · exact responseStep_emit e s

theorem responseStep_respond (s : State) : ResponseStep s (respond s).1 := by
  unfold respond
  repeat' split
  · unfold respondGoIdle
    simp only
    split
    · exact (responseStep_initDrive _ s).trans (responseStep_emit _ _)
    · exact (responseStep_initDrive _ s).trans (responseStep_emit _ _)
  · exact responseStep_emit _ s
  · exact responseStep_emit _ s
  · unfold respondReadMultiple
    split <;> exact responseStep_emit _ s
  · unfold respondWriteMultiple
    repeat' split
    · exact responseStep_emit _ s
    · exact responseStep_emit _ s
    · exact responseStep_emitClosing _ s
    · exact responseStep_emitClosing _ s
  · exact responseStep_emit _ s
  · exact responseStep_emit _ s
  · exact responseStep_emit _ s
  · exact ⟨rfl, fun h => ⟨h.rdIdle, h.wrIdle⟩, fun _ h => h, fun _ => rfl, id, LatchStep.refl s⟩

/-- A response byte returned: a response step and one result more. -/
theorem answer_step (s : State) :
    ∃ t, ResponseStep s t ∧ answer s = { t with results := .byte (respond s).2 :: s.results } := by
  refine ⟨(respond s).1, responseStep_respond s, ?_⟩
  have h : (respond s).1.results = s.results := by rw [(responseStep_respond s).only]
  simp only [answer, returns, h]

/-- Any number of response bytes: response steps, and as many results more. -/
theorem answers_step (n : Nat) (s : State) :
    ∃ t rs, ResponseStep s t ∧ answers n s = { t with results := rs ++ s.results } ∧
      rs.length = n := by
  induction n generalizing s with
  | zero => exact ⟨s, [], ResponseStep.refl s, rfl, rfl⟩
  | succ n ih =>
    obtain ⟨t, ht, ha⟩ := answer_step s
    obtain ⟨u, rs, hu, hb, hl⟩ := ih (answer s)
    have hr : (answer s).results = .byte (respond s).2 :: s.results := by rw [ha]
    refine ⟨{ u with results := s.results }, rs ++ [.byte (respond s).2], ?_, ?_, by simp [hl]⟩
    · have h1 : ResponseStep s { answer s with results := s.results } := by
        have hres : t.results = s.results := by rw [ht.only]
        rw [ha, ← hres]
        exact ht
      have h2 : ResponseStep { answer s with results := s.results }
          { u with results := s.results } := by
        refine ⟨?_, fun h => ?_, hu.counts, hu.sticky, hu.resolved, hu.latches⟩
        · conv_lhs => rw [hu.only]
        · exact ⟨(hu.idle ⟨h.rdIdle, h.wrIdle⟩).rdIdle, (hu.idle ⟨h.rdIdle, h.wrIdle⟩).wrIdle⟩
      exact h1.trans h2
    · rw [answers, hb, hr]
      simp

/-- One more response byte at the end. -/
theorem answers_succ_last (n : Nat) (s : State) : answers (n + 1) s = answer (answers n s) := by
  induction n generalizing s with
  | zero => rfl
  | succ n ih => rw [answers, ih]; rfl

end Sys2Proof.Machine
end

