-- ==== Sys2Proof/Laws/Decode.lean ====
section
/-! SUPPORT. Each field of an encoding is read back by the decoder. -/

namespace Sys2Proof.Machine

open Sys2Proof

theorem ofByte_selectorByte (p : PortOp) : PortOp.ofByte p.selectorByte = some p := by
  cases p <;> decide

theorem lineOfByte_byteOfLine (l : StrobeLine) : lineOfByte (byteOfLine l) = some l := by
  cases l <;> decide

theorem stateOfByte_byteOfState (st : StrobeState) : stateOfByte (byteOfState st) = some st := by
  cases st <;> decide

theorem directionOfByte_byteOfDirection (d : Direction) :
    directionOfByte (byteOfDirection d) = some d := by
  cases d <;> decide

theorem boolOfByte_byteOfBool (b : Bool) : boolOfByte (byteOfBool b) = some b := by
  cases b <;> decide

theorem addrOfByte_setWidth (a : RegAddr) : addrOfByte (a.setWidth 8) = some a := by
  revert a; decide

theorem codeOfByte_setWidth (a : CmdCode) : codeOfByte (a.setWidth 8) = some a := by
  revert a; decide

/-- The six bytes of a buffer descriptor. -/
theorem bufferOfBytes_bufferBytes (b : Buffer) :
    bufferOfBytes (b.base.extractLsb' 24 8) (b.base.extractLsb' 16 8) (b.base.extractLsb' 8 8)
      (b.base.extractLsb' 0 8) ((b.cap - 512#16).extractLsb' 8 8)
      ((b.cap - 512#16).extractLsb' 0 8) = b := by
  simp only [bufferOfBytes, join32_extract, join16_extract, BitVec.sub_add_cancel]

/-- An operation's item: its selector names it, and its operands follow (R112). -/
theorem decode_portItem (c : Config) (pos : Nat) (p : PortOp) (ops : List Byte) :
    decode c pos (portItem p ops) = decodeOperands p ops := by
  simp only [decode, portItem, decodePort, ofByte_selectorByte]

/-- A frame's item: the row of its command code, with its argument and checksum (R91). -/
theorem decode_frameItem (c : Config) (pos : Nat) (cmd : CmdCode) (arg : CmdArg) (crc n : Byte) :
    decode c pos (frameItem cmd arg crc n) = .ok (frameInstr c cmd arg crc n) := by
  simp only [decode, frameItem, split32, List.cons_append, List.nil_append, decodeFrame]
  rw [if_pos (commandByte_isCommandByte cmd), commandCode_commandByte, join32_extract]

end Sys2Proof.Machine
end

