-- ==== Sys2Proof/Laws/Response.lean ====
section
/-! SUPPORT. What each response arm answers. -/

namespace Sys2Proof.Machine

open Sys2Proof

/-- Within its row, an entry has the byte that it emits. -/
theorem respByte_some (c : Config) (e : Entry) (k : Nat) (h : c.Wf) (hk : k < c.respLen e) :
    (c.resp.get e)[k + 1]? = some (respByte c e (k + 1)) := by
  have hr := Config.Wf.row h e
  unfold respByte
  unfold Config.respLen at hk
  revert hr hk
  cases c.resp.get e with
  | nil => intro _ hr; exact hr.elim
  | cons l ps =>
    intro hk hr
    have : k < ps.length := by have := hr.2; simp only at hk; omega
    simp [this]

/-- The emission step emits the next byte of the entry (R240). -/
theorem emits_emit (e : Entry) (s : State) (h : s.Inv) :
    Emits e s (emit e s).byte (nextCount s.cfg e (s.count.get e)) :=
  ⟨respByte_some _ _ _ h.cfgWf (h.countBound e), rfl⟩

/-- The eight codes are pairwise distinct (R98), in the order in which the dispatcher tests them. -/
theorem codes_distinct {c : Config} (h : c.Wf) :
    c.sdSendIfCond ≠ c.sdGoIdle ∧
    c.sdStopTransmission ≠ c.sdGoIdle ∧ c.sdStopTransmission ≠ c.sdSendIfCond ∧
    c.sdReadMultiple ≠ c.sdGoIdle ∧ c.sdReadMultiple ≠ c.sdSendIfCond ∧
      c.sdReadMultiple ≠ c.sdStopTransmission ∧
    c.sdWriteMultiple ≠ c.sdGoIdle ∧ c.sdWriteMultiple ≠ c.sdSendIfCond ∧
      c.sdWriteMultiple ≠ c.sdStopTransmission ∧ c.sdWriteMultiple ≠ c.sdReadMultiple ∧
    c.sdAppCmd ≠ c.sdGoIdle ∧ c.sdAppCmd ≠ c.sdSendIfCond ∧ c.sdAppCmd ≠ c.sdStopTransmission ∧
      c.sdAppCmd ≠ c.sdReadMultiple ∧ c.sdAppCmd ≠ c.sdWriteMultiple ∧
      c.sdAppCmd ≠ c.sdSendOpCond ∧
    c.sdSendOpCond ≠ c.sdGoIdle ∧ c.sdSendOpCond ≠ c.sdSendIfCond ∧
      c.sdSendOpCond ≠ c.sdStopTransmission ∧ c.sdSendOpCond ≠ c.sdReadMultiple ∧
      c.sdSendOpCond ≠ c.sdWriteMultiple ∧ c.sdSendOpCond ≠ c.sdAppCmd ∧
    c.sdReadOcr ≠ c.sdGoIdle ∧ c.sdReadOcr ≠ c.sdSendIfCond ∧
      c.sdReadOcr ≠ c.sdStopTransmission ∧ c.sdReadOcr ≠ c.sdReadMultiple ∧
      c.sdReadOcr ≠ c.sdWriteMultiple ∧ c.sdReadOcr ≠ c.sdAppCmd ∧
      c.sdReadOcr ≠ c.sdSendOpCond := by
  have := h.1
  simp only [Config.sdCodes, List.nodup_cons, List.mem_cons, List.not_mem_nil, or_false,
    not_or] at this
  obtain ⟨⟨a1, a2, a3, a4, a5, a6, a7⟩, ⟨b1, b2, b3, b4, b5, b6⟩, ⟨c1, c2, c3, c4, c5⟩,
    ⟨d1, d2, d3, d4⟩, ⟨e1, e2, e3⟩, ⟨f1, f2⟩, g1, _⟩ := this
  exact ⟨Ne.symm a1, Ne.symm a2, Ne.symm b1, Ne.symm a3, Ne.symm b2, Ne.symm c1, Ne.symm a4,
    Ne.symm b3, Ne.symm c2, Ne.symm d1, Ne.symm a6, Ne.symm b5, Ne.symm c4, Ne.symm d3, Ne.symm e2,
    Ne.symm f1, Ne.symm a5, Ne.symm b4, Ne.symm c3, Ne.symm d2, Ne.symm e1, f1, Ne.symm a7,
    Ne.symm b6, Ne.symm c5, Ne.symm d4, Ne.symm e3, Ne.symm g1, Ne.symm f2⟩

/-- An answer from one entry. -/
theorem answer_emit (e : Entry) (s : State) (h : respond s = emitByte e s) :
    answer s = answered e (emit e s).byte (nextCount s.cfg e (s.count.get e)) s := by
  unfold answer
  rw [h]
  simp only [emitByte, emit_state]
  rfl

/-- The commands whose response depends on nothing, with their entries. -/
def fixedEntries (c : Config) : List (CmdCode × Entry) :=
  [(c.sdSendIfCond, .ifCond), (c.sdStopTransmission, .stop), (c.sdAppCmd, .appCmd),
    (c.sdSendOpCond, .opCond), (c.sdReadOcr, .ocr)]

theorem respond_fixed (s : State) (h : s.cfg.Wf) (e : Entry)
    (hm : (s.cmd, e) ∈ fixedEntries s.cfg) : respond s = emitByte e s := by
  have hd := codes_distinct h
  simp only [fixedEntries, List.mem_cons, List.not_mem_nil, or_false, Prod.mk.injEq] at hm
  rcases hm with ⟨h1, h2⟩ | ⟨h1, h2⟩ | ⟨h1, h2⟩ | ⟨h1, h2⟩ | ⟨h1, h2⟩ <;>
    subst h2 <;> simp only [respond, h1, hd, if_true, if_false] <;> rfl

/-- The GO_IDLE arm (R243). -/
theorem respond_goIdle (s : State) (h : s.cmd = s.cfg.sdGoIdle) : respond s = respondGoIdle s := by
  unfold respond
  rw [if_pos h]

/-- The READ_MULTIPLE arm (R246). -/
theorem respond_readMultiple (s : State) (h : s.cfg.Wf) (hc : s.cmd = s.cfg.sdReadMultiple) :
    respond s = respondReadMultiple s := by
  have hd := codes_distinct h
  simp only [respond, hc, hd, if_true, if_false]

/-- The WRITE_MULTIPLE arm (R247). -/
theorem respond_writeMultiple (s : State) (h : s.cfg.Wf) (hc : s.cmd = s.cfg.sdWriteMultiple) :
    respond s = respondWriteMultiple s := by
  have hd := codes_distinct h
  simp only [respond, hc, hd, if_true, if_false]

/-- Only the GO_IDLE arm writes `MODE` or `BUS_RESOLVED`. -/
theorem respond_mode (s : State) (h : s.cmd ≠ s.cfg.sdGoIdle) :
    (respond s).1.mode = s.mode ∧ (respond s).1.busResolved = s.busResolved := by
  have he : ∀ e, (emit e s).state.mode = s.mode ∧ (emit e s).state.busResolved = s.busResolved :=
    fun e => by rw [emit_state]; exact ⟨rfl, rfl⟩
  unfold respond
  rw [if_neg h]
  repeat' split
  all_goals first
    | exact he _
    | exact ⟨rfl, rfl⟩
    | skip
  · unfold respondReadMultiple
    split <;> exact he _
  · unfold respondWriteMultiple emitClosing
    repeat' split
    all_goals exact he .wrNext

theorem nextCount_lt {c : Config} {e : Entry} {k : Nat} (h : k + 1 < c.respLen e) :
    nextCount c e k = k + 1 := by
  unfold nextCount; rw [if_neg (by omega)]

theorem nextCount_last {c : Config} {e : Entry} {k : Nat} (h : k + 1 = c.respLen e) :
    nextCount c e k = 0 := by
  unfold nextCount; rw [if_pos h]

/-- A FRAME row is the SD command of its code. -/
theorem frameRow_exec {cmd : CmdCode} {f : CmdArg → Byte → Byte → Instr} (s : State)
    (h : FrameRow s.cfg cmd f) (arg : CmdArg) (crc n : Byte) :
    exec (f arg crc n) s = .next (sdCommand cmd arg crc n s) := by
  cases h <;> rfl

/-- A token taken while no frame is open. -/
theorem consume_token (b : Byte) (s : State) (hp : s.argPos = 0) (hb : IsToken b) :
    consume b s = takeToken b s := by
  unfold consume; rw [if_pos ⟨hp, hb⟩]

end Sys2Proof.Machine
end

