-- ==== Sys2Proof/Laws/Run.lean ====
section
/-! SUPPORT. Runs on given drive answers: what each drive access adds to the trace and to the log, and the pending
answers it leaves; such runs compose. -/

namespace Sys2Proof.Machine

open Sys2Proof

/-- From `s` to `t` over the bus: the trace and the log grow by the given events, and the pending answers left are
`rest`; a strobe that was negated is negated after. -/
structure Ran (s t : State) (tr : List BusEvent) (lg : List LogEvent) (rest : List Byte) :
    Prop where
  events : t.events = tr.reverse ++ s.events
  driveIn : t.driveIn = rest
  log : t.log = lg ++ s.log
  only : BusOnly s t
  rdNegated : s.rdState = .negate → t.rdState = .negate
  wrNegated : s.wrState = .negate → t.wrState = .negate

theorem Ran.trace {s t : State} {tr : List BusEvent} {lg : List LogEvent} {rest : List Byte}
    (h : Ran s t tr lg rest) : t.trace = s.trace ++ tr := by
  simp [State.trace, h.events]

theorem Ran.cfg {s t : State} {tr : List BusEvent} {lg : List LogEvent} {rest : List Byte}
    (h : Ran s t tr lg rest) : t.cfg = s.cfg := h.only.cfg

theorem Ran.refl (s : State) : Ran s s [] [] s.driveIn :=
  ⟨rfl, rfl, rfl, BusOnly.refl s, id, id⟩

theorem Ran.trans {s t u : State} {tr tr' : List BusEvent} {lg lg' : List LogEvent}
    {r r' : List Byte} (h₁ : Ran s t tr lg r) (h₂ : Ran t u tr' lg' r') :
    Ran s u (tr ++ tr') (lg' ++ lg) r' where
  events := by rw [h₂.events, h₁.events]; simp
  driveIn := h₂.driveIn
  log := by rw [h₂.log, h₁.log, List.append_assoc]
  only := h₁.only.trans h₂.only
  rdNegated := h₂.rdNegated ∘ h₁.rdNegated
  wrNegated := h₂.wrNegated ∘ h₁.wrNegated

/-- A register read that finds a pending answer. -/
theorem ran_readReg (a : RegAddr) (v : Byte) (rest : List Byte) (s : State)
    (h : s.driveIn = v :: rest) :
    ∃ t, readReg a s = (t, v) ∧ Ran s t (readTrace a v) [] rest :=
  ⟨afterRead a v s, readReg_pending a s v rest h,
    ⟨rfl, by simp [afterRead, h], rfl, busOnly_afterRead a v s, fun _ => rfl, id⟩⟩

/-- A register write. -/
theorem ran_writeReg (a : RegAddr) (v : Byte) (s : State) :
    Ran s (writeReg a v s) (writeTrace a v) [] s.driveIn :=
  ⟨rfl, rfl, rfl, busOnly_writeReg a v s, id, fun _ => rfl⟩

/-- A command byte issued. -/
theorem ran_issueCommand (v : Byte) (s : State) :
    Ran s (issueCommand v s) (writeTrace s.cfg.regStatusCmd v) [] s.driveIn := ran_writeReg _ v s

/-- An error or warning logged. -/
theorem ran_reportError (sev : Severity) (k : LogKind) (s : State) :
    Ran s (reportError sev k s) [] [⟨sev, k⟩] s.driveIn :=
  ⟨rfl, rfl, rfl, busOnly_reportError sev k s, id, id⟩

/-- A status wait on given answers (R154). -/
theorem ran_waitStatus (mask : Byte) (answers rest : List Byte) (r : WaitResult) (s : State)
    (hd : s.driveIn = answers ++ rest) (hr : WaitRun s.cfg mask answers r) :
    ∃ t, waitStatus mask s = (t, r) ∧
      Ran s t (readsTrace s.cfg.regStatusCmd answers) (waitLog r) rest := by
  have hf := afterWait_fields answers r s
  refine ⟨_, waitStatus_run mask answers rest r s hd hr, ⟨hf.1, ?_, hf.2.2.1,
    busOnly_afterWait answers r s, afterReads_rdState _ _ _, fun h => hf.2.2.2.1.trans h⟩⟩
  rw [hf.2.1, hd, List.drop_left]

/-- The reads of one register that give the bytes of a list. -/
theorem ran_afterReads (a : RegAddr) (vs rest : List Byte) (s : State)
    (hd : s.driveIn = vs ++ rest) : Ran s (afterReads a vs s) (readsTrace a vs) [] rest := by
  have hf := afterReads_fields a vs s
  refine ⟨hf.1, ?_, hf.2.2.1, busOnly_afterReads a vs s, afterReads_rdState a vs s,
    fun h => hf.2.2.2.1.trans h⟩
  rw [hf.2.1, hd, List.drop_left]

/-- The first three address writes, which a read and a write share (R190, R193). -/
theorem ran_loadLba (sec : Sector) (s : State) :
    ∃ t, t = writeReg s.cfg.regLba2 (lba2Byte sec) (writeReg s.cfg.regLba1 (lba1Byte sec)
        (writeReg s.cfg.regLba0 (lba0Byte sec) s)) ∧
      Ran s t (writeTrace s.cfg.regLba0 (lba0Byte sec) ++ writeTrace s.cfg.regLba1 (lba1Byte sec) ++
        writeTrace s.cfg.regLba2 (lba2Byte sec)) [] s.driveIn := by
  have h1 := ran_writeReg s.cfg.regLba0 (lba0Byte sec) s
  have h2 := ran_writeReg s.cfg.regLba1 (lba1Byte sec) (writeReg s.cfg.regLba0 (lba0Byte sec) s)
  have h3 := ran_writeReg s.cfg.regLba2 (lba2Byte sec)
    (writeReg s.cfg.regLba1 (lba1Byte sec) (writeReg s.cfg.regLba0 (lba0Byte sec) s))
  rw [h2.driveIn, h1.driveIn] at h3
  exact ⟨_, rfl, (h1.trans h2).trans h3⟩

/-- The four address writes of a read (R190). -/
theorem ran_loadAddrRead (sec : Sector) (s : State) :
    Ran s (loadAddrRead sec s)
      (writeTrace s.cfg.regLba0 (lba0Byte sec) ++ writeTrace s.cfg.regLba1 (lba1Byte sec) ++
        writeTrace s.cfg.regLba2 (lba2Byte sec) ++
        writeTrace s.cfg.regDriveHead (headByteForced sec)) [] s.driveIn := by
  obtain ⟨t, ht, h3⟩ := ran_loadLba sec s
  have h4 := ran_writeReg s.cfg.regDriveHead (headByteForced sec) t
  rw [h3.driveIn] at h4
  rw [loadAddrRead, ← ht]
  exact h3.trans h4

/-- The address load of a write (R193), on the drive/head byte `h`. -/
theorem ran_loadAddrWrite (sec : Sector) (h : Byte) (rest : List Byte) (s : State)
    (hd : s.driveIn = h :: rest) :
    Ran s (loadAddrWrite sec s)
      (writeTrace s.cfg.regLba0 (lba0Byte sec) ++ writeTrace s.cfg.regLba1 (lba1Byte sec) ++
        writeTrace s.cfg.regLba2 (lba2Byte sec) ++ readTrace s.cfg.regDriveHead h ++
        writeTrace s.cfg.regDriveHead (headByteKept h sec)) [] rest := by
  obtain ⟨t, ht, h3⟩ := ran_loadLba sec s
  obtain ⟨u, hu, hr⟩ := ran_readReg s.cfg.regDriveHead h rest t (h3.driveIn.trans hd)
  have h5 := ran_writeReg s.cfg.regDriveHead (headByteKept h sec) u
  rw [hr.driveIn] at h5
  simp only [loadAddrWrite, ← ht, h3.cfg, hu, hr.cfg]
  exact (h3.trans hr).trans h5

/-- Bytes handed over to the data register, on the host memory `m` (R195). -/
theorem ran_writeData (a n : Nat) (s : State) :
    Ran s (writeData a n s)
      (writesTrace s.cfg.regData ((List.range n).map (fun i => s.hostMem.read (a + i)))) []
      s.driveIn := by
  induction n generalizing a s with
  | zero => exact Ran.refl s
  | succ n ih =>
    have h := (ran_writeReg s.cfg.regData (s.hostMem.read a) s).trans (ih (a + 1) _)
    have he : writesTrace s.cfg.regData
          ((List.range (n + 1)).map (fun i => s.hostMem.read (a + i))) =
        writeTrace s.cfg.regData (s.hostMem.read a) ++ writesTrace s.cfg.regData
          ((List.range n).map (fun i => s.hostMem.read (a + 1 + i))) := by
      rw [List.range_succ_eq_map]
      simp [writesTrace, List.flatMap_map, Function.comp_def, Nat.add_comm, Nat.add_left_comm]
    rw [he]
    exact h

/-- Bytes taken from the data register, on given answers (R192): the trace, the pending answers, and the bytes
stored. -/
theorem readData_run (data rest : List Byte) (a : Nat) (s : State)
    (hd : s.driveIn = data ++ rest) (hm : s.hostMem.Wf) :
    ∃ t, t = readData a data.length s ∧ t.events = (readsTrace s.cfg.regData data).reverse ++ s.events ∧
      t.driveIn = rest ∧ t.log = s.log ∧
      (∀ (j : Nat) (hj : j < data.length), t.hostMem.read (a + j) = data[j]) := by
  induction data generalizing a s with
  | nil => exact ⟨s, rfl, rfl, hd, rfl, fun j hj => absurd hj (by simp)⟩
  | cons v vs ih =>
    have hr := readReg_pending s.cfg.regData s v (vs ++ rest) hd
    obtain ⟨t, ht, h1, h2, h3, h4⟩ := ih (a + 1) (storeByte a v (afterRead s.cfg.regData v s))
      (by simp [storeByte, afterRead, hd]) (Memory.wf_write _ _ _ hm)
    refine ⟨t, ?_, ?_, h2, h3, ?_⟩
    · rw [ht]; simp only [List.length_cons, readData, hr]
    · rw [h1]; simp [storeByte, afterRead, readsTrace]
    · intro j hj
      cases j with
      | zero =>
        rw [ht, (readData_mem (a + 1) vs.length _).1 (a + 0) (by omega)]
        exact Memory.read_write_self _ _ _ hm
      | succ j =>
        have := h4 j (by simpa using hj)
        simpa [Nat.add_assoc, Nat.add_comm 1 j] using this

end Sys2Proof.Machine
end

