-- ==== Sys2Proof/Laws/Sector.lean ====
section
/-! SUPPORT. Sector transfer: the sector operations on given drive answers, their bounds, and that they do not look
at the multi-sector cursors. -/

namespace Sys2Proof.Machine

open Sys2Proof

theorem headByteForced_eq (sec : Sector) : headByteForced sec = 0xE#4 ++ sec.extractLsb' 24 4 := by
  unfold headByteForced headNibble lbaDrive0
  generalize sec.extractLsb' 24 4 = n
  revert n; decide

theorem headByteKept_eq (h : Byte) (sec : Sector) :
    headByteKept h sec = h.extractLsb' 4 4 ++ sec.extractLsb' 24 4 := by
  unfold headByteKept headNibble
  generalize sec.extractLsb' 24 4 = n
  revert h n; decide

theorem loadAddrRead_cfg (sec : Sector) (s : State) : (loadAddrRead sec s).cfg = s.cfg :=
  (busStep_loadAddrRead sec s).only.cfg

theorem loadAddrWrite_cfg (sec : Sector) (s : State) : (loadAddrWrite sec s).cfg = s.cfg :=
  (busStep_loadAddrWrite sec s).only.cfg

/-- `readSector` up to its status wait, on given answers (R192). -/
theorem sectorIn_wait (sec : Sector) (size : Nat) (buf : Buffer) (ws rest : List Byte)
    (r : WaitResult) (s : State) (hd : s.driveIn = ws ++ rest)
    (hw : WaitRun s.cfg s.cfg.stDrq ws r) :
    ∃ t, sectorIn sec size buf s =
        (match r with
        | .timeout => (reportError .error .statusTimeout t, 0)
        | .ok => (readData (bufAddr buf 0) size t, size)) ∧
      Ran s t (loadAddrReadTrace s.cfg sec ++ writeTrace s.cfg.regStatusCmd s.cfg.ataRead ++
        readsTrace s.cfg.regStatusCmd ws) (waitLog r) rest := by
  have h1 := ran_loadAddrRead sec s
  have hc := loadAddrRead_cfg sec s
  have h2 := ran_issueCommand s.cfg.ataRead (loadAddrRead sec s)
  unfold sectorIn
  generalize loadAddrRead sec s = u at *
  have hc2 := h2.cfg.trans hc
  simp only [hc2]
  rw [h1.driveIn, hc] at h2
  generalize issueCommand s.cfg.ataRead u = v at *
  obtain ⟨t, ht, h3⟩ := ran_waitStatus s.cfg.stDrq ws rest r v (h2.driveIn.trans hd)
    (by rw [hc2]; exact hw)
  have h4 := (h1.trans h2).trans h3
  rw [hc2] at h4
  refine ⟨t, by cases r <;> rw [ht], ?_⟩
  simpa [loadAddrReadTrace, headByteForced_eq, lba0Byte, lba1Byte, lba2Byte] using h4

/-- `writeSector` up to its status wait, on given answers (R195). -/
theorem sectorOut_wait (sec : Sector) (buf : Buffer) (h : Byte) (ws rest : List Byte)
    (r : WaitResult) (s : State) (hd : s.driveIn = h :: ws ++ rest)
    (hw : WaitRun s.cfg s.cfg.stDrq ws r) :
    ∃ t, sectorOut sec buf s =
        (match r with
        | .timeout => (reportError .error .statusTimeout t, 0)
        | .ok => (writeData (bufAddr buf 0) sectorSize t, 1)) ∧
      Ran s t (loadAddrWriteTrace s.cfg sec h ++ writeTrace s.cfg.regStatusCmd s.cfg.ataWrite ++
        readsTrace s.cfg.regStatusCmd ws) (waitLog r) rest := by
  have h1 := ran_loadAddrWrite sec h (ws ++ rest) s hd
  have hc := loadAddrWrite_cfg sec s
  have h2 := ran_issueCommand s.cfg.ataWrite (loadAddrWrite sec s)
  unfold sectorOut
  generalize loadAddrWrite sec s = u at *
  have hc2 := h2.cfg.trans hc
  simp only [hc2]
  rw [h1.driveIn, hc] at h2
  generalize issueCommand s.cfg.ataWrite u = v at *
  obtain ⟨t, ht, h3⟩ := ran_waitStatus s.cfg.stDrq ws rest r v h2.driveIn (by rw [hc2]; exact hw)
  have h4 := (h1.trans h2).trans h3
  rw [hc2] at h4
  refine ⟨t, by cases r <;> rw [ht], ?_⟩
  simpa [loadAddrWriteTrace, headByteKept_eq, lba0Byte, lba1Byte, lba2Byte] using h4

theorem writeReg_events_length (a : RegAddr) (v : Byte) (s : State) :
    (writeReg a v s).events.length = s.events.length + 6 := by
  rw [writeReg_state, afterWrite_events_length]

theorem readReg_events_length (a : RegAddr) (s : State) :
    (readReg a s).1.events.length = s.events.length + 6 := by
  rw [readReg_state, afterRead_events_length]

theorem loadAddrRead_events_length (sec : Sector) (s : State) :
    (loadAddrRead sec s).events.length = s.events.length + 24 := by
  simp only [loadAddrRead, writeReg_events_length]

theorem loadAddrWrite_events_length (sec : Sector) (s : State) :
    (loadAddrWrite sec s).events.length = s.events.length + 30 := by
  simp only [loadAddrWrite, writeReg_events_length, readReg_events_length]

theorem readData_events_length (a n : Nat) (s : State) :
    (readData a n s).events.length = s.events.length + 6 * n := by
  induction n generalizing a s with
  | zero => rfl
  | succ n ih => simp only [readData, ih, storeByte, readReg_events_length]; omega

theorem writeData_events_length (a n : Nat) (s : State) :
    (writeData a n s).events.length = s.events.length + 6 * n := by
  induction n generalizing a s with
  | zero => rfl
  | succ n ih => simp only [writeData, ih, writeReg_events_length]; omega

/-- `readSector` makes at most `5 + N + size` register accesses (R337). -/
theorem sectorIn_events_length (sec : Sector) (size : Nat) (buf : Buffer) (s : State) :
    (sectorIn sec size buf s).1.events.length ≤
      s.events.length + 6 * (5 + s.cfg.statusTimeoutPolls + size) := by
  unfold sectorIn
  have hwl := waitStatus_events_length s.cfg.stDrq
    (issueCommand s.cfg.ataRead (loadAddrRead sec s))
  have hc : (issueCommand s.cfg.ataRead (loadAddrRead sec s)).cfg = s.cfg := by
    rw [issueCommand_cfg, loadAddrRead_cfg]
  have hla : (issueCommand s.cfg.ataRead (loadAddrRead sec s)).events.length =
      s.events.length + 30 := by
    unfold issueCommand
    rw [writeReg_events_length, loadAddrRead_events_length]
  rw [hla, hc] at hwl
  simp only [hc]
  generalize waitStatus s.cfg.stDrq (issueCommand s.cfg.ataRead (loadAddrRead sec s)) = w at *
  split
  · simp only [reportError, logEvent]; omega
  · simp only [readData_events_length]; omega

/-- `writeSector` makes at most `6 + N + 512` register accesses (R337). -/
theorem sectorOut_events_length (sec : Sector) (buf : Buffer) (s : State) :
    (sectorOut sec buf s).1.events.length ≤
      s.events.length + 6 * (6 + s.cfg.statusTimeoutPolls + 512) := by
  unfold sectorOut
  have hwl := waitStatus_events_length s.cfg.stDrq
    (issueCommand s.cfg.ataWrite (loadAddrWrite sec s))
  have hc : (issueCommand s.cfg.ataWrite (loadAddrWrite sec s)).cfg = s.cfg := by
    rw [issueCommand_cfg, loadAddrWrite_cfg]
  have hla : (issueCommand s.cfg.ataWrite (loadAddrWrite sec s)).events.length =
      s.events.length + 36 := by
    unfold issueCommand
    rw [writeReg_events_length, loadAddrWrite_events_length]
  rw [hla, hc] at hwl
  have hn : sectorSize = 512 := rfl
  generalize sectorSize = n at *
  simp only [hc]
  generalize waitStatus s.cfg.stDrq (issueCommand s.cfg.ataWrite (loadAddrWrite sec s)) = w at *
  split
  · simp only [reportError, logEvent]; omega
  · simp only [writeData_events_length]; omega

theorem sectorIn_number (sec : Sector) (size : Nat) (buf : Buffer) (s : State) :
    (sectorIn sec size buf s).2 = 0 ∨ (sectorIn sec size buf s).2 = size := by
  unfold sectorIn
  simp only; split <;> simp

theorem sectorOut_number (sec : Sector) (buf : Buffer) (s : State) :
    (sectorOut sec buf s).2 = 0 ∨ (sectorOut sec buf s).2 = 1 := by
  unfold sectorOut
  generalize sectorSize = n
  simp only; split <;> simp

/-- `readSector` within its contract (R192). -/
theorem execReadSector_next (sec : Sector) (size : BitVec 16) (buf : Buffer) (s : State)
    (h1 : size.toNat ≤ 512) (h2 : size.toNat ≤ buf.cap.toNat) :
    execReadSector sec size buf s = .next (returns (.number (sectorIn sec size.toNat buf s).2)
      (sectorIn sec size.toNat buf s).1) := by
  simp only [execReadSector, withBuffer]
  rw [if_neg (by unfold sectorSize; omega), if_pos h2]

/-- `writeSector` within its contract (R195). -/
theorem execWriteSector_next (sec : Sector) (buf : Buffer) (s : State)
    (h : 512 ≤ buf.cap.toNat) :
    execWriteSector sec buf s =
      .next (returns (.number (sectorOut sec buf s).2) (sectorOut sec buf s).1) := if_pos h

/-- An operation on a buffer long enough completes. -/
theorem withBuffer_holds {buf : Buffer} {n : Nat} (op : State → State × Nat) (s : State)
    (h : BufHolds buf n) :
    withBuffer buf n op s = .next (returns (.number (op s).2) (op s).1) := if_pos h

/-- An operation on a buffer that ends in a next state ran its transfer and returned its count. -/
theorem withBuffer_next {buf : Buffer} {n : Nat} {op : State → State × Nat} {s t : State}
    (h : withBuffer buf n op s = .next t) : t = returns (.number (op s).2) (op s).1 := by
  unfold withBuffer at h
  split at h
  · cases h; rfl
  · cases h

theorem Cursor.anchored_advanced (c : Cursor) (sec : Sector) :
    (c.anchored sec).advanced = ⟨sec, (if sec = c.anchor then c.current else sec) + 1⟩ := by
  unfold Cursor.anchored Cursor.advanced
  split
  · next h => rw [h]
  · rfl

theorem Cursor.anchored_current (c : Cursor) (sec : Sector) :
    (c.anchored sec).current = if sec = c.anchor then c.current else sec := by
  unfold Cursor.anchored
  split <;> rfl

/-- The read cursor is not looked at by the poll. -/
theorem pollStatus_rcur (mask : Byte) (n : Nat) (s : State) (r : Cursor) :
    pollStatus mask n { s with rcur := r } =
      ({ (pollStatus mask n s).1 with rcur := r }, (pollStatus mask n s).2) := by
  induction n generalizing s with
  | zero => rfl
  | succ n ih =>
    have h1 : readReg s.cfg.regStatusCmd { s with rcur := r } =
      ({ (readReg s.cfg.regStatusCmd s).1 with rcur := r }, (readReg s.cfg.regStatusCmd s).2) := rfl
    simp only [pollStatus, h1]
    split
    · rfl
    · exact ih _

theorem waitStatus_rcur (mask : Byte) (s : State) (r : Cursor) :
    waitStatus mask { s with rcur := r } =
      ({ (waitStatus mask s).1 with rcur := r }, (waitStatus mask s).2) := by
  unfold waitStatus
  simp only [pollStatus_rcur]
  split <;> rfl

theorem readData_rcur (a n : Nat) (s : State) (r : Cursor) :
    readData a n { s with rcur := r } = { readData a n s with rcur := r } := by
  induction n generalizing a s with
  | zero => rfl
  | succ n ih =>
    exact ih (a + 1)
      (storeByte a (readReg s.cfg.regData s).2 (readReg s.cfg.regData s).1)

/-- The read cursor is not looked at by a sector read. -/
theorem sectorIn_rcur (sec : Sector) (size : Nat) (buf : Buffer) (s : State) (r : Cursor) :
    sectorIn sec size buf { s with rcur := r } =
      ({ (sectorIn sec size buf s).1 with rcur := r }, (sectorIn sec size buf s).2) := by
  unfold sectorIn
  have h1 : loadAddrRead sec { s with rcur := r } = { loadAddrRead sec s with rcur := r } := rfl
  rw [h1]
  generalize loadAddrRead sec s = u
  have h2 : issueCommand s.cfg.ataRead { u with rcur := r } =
    { issueCommand s.cfg.ataRead u with rcur := r } := rfl
  simp only [h2]
  generalize issueCommand s.cfg.ataRead u = v
  rw [waitStatus_rcur]
  simp only
  generalize waitStatus v.cfg.stDrq v = w
  split
  · rfl
  · simp only [readData_rcur]

/-- The write cursor is not looked at by the poll. -/
theorem pollStatus_wcur (mask : Byte) (n : Nat) (s : State) (r : Cursor) :
    pollStatus mask n { s with wcur := r } =
      ({ (pollStatus mask n s).1 with wcur := r }, (pollStatus mask n s).2) := by
  induction n generalizing s with
  | zero => rfl
  | succ n ih =>
    have h1 : readReg s.cfg.regStatusCmd { s with wcur := r } =
      ({ (readReg s.cfg.regStatusCmd s).1 with wcur := r }, (readReg s.cfg.regStatusCmd s).2) := rfl
    simp only [pollStatus, h1]
    split
    · rfl
    · exact ih _

theorem waitStatus_wcur (mask : Byte) (s : State) (r : Cursor) :
    waitStatus mask { s with wcur := r } =
      ({ (waitStatus mask s).1 with wcur := r }, (waitStatus mask s).2) := by
  unfold waitStatus
  simp only [pollStatus_wcur]
  split <;> rfl

theorem writeData_wcur (a n : Nat) (s : State) (r : Cursor) :
    writeData a n { s with wcur := r } = { writeData a n s with wcur := r } := by
  induction n generalizing a s with
  | zero => rfl
  | succ n ih => exact ih (a + 1) (writeReg s.cfg.regData (s.hostMem.read a) s)

/-- The write cursor is not looked at by a sector write. -/
theorem sectorOut_wcur (sec : Sector) (buf : Buffer) (s : State) (r : Cursor) :
    sectorOut sec buf { s with wcur := r } =
      ({ (sectorOut sec buf s).1 with wcur := r }, (sectorOut sec buf s).2) := by
  unfold sectorOut
  have h1 : loadAddrWrite sec { s with wcur := r } = { loadAddrWrite sec s with wcur := r } := rfl
  rw [h1]
  generalize loadAddrWrite sec s = u
  generalize sectorSize = n
  have h2 : issueCommand s.cfg.ataWrite { u with wcur := r } =
    { issueCommand s.cfg.ataWrite u with wcur := r } := rfl
  simp only [h2]
  generalize issueCommand s.cfg.ataWrite u = v
  rw [waitStatus_wcur]
  simp only
  generalize waitStatus v.cfg.stDrq v = w
  split
  · rfl
  · simp only [writeData_wcur]

end Sys2Proof.Machine
end

