-- ==== Sys2Proof/Laws/Exec.lean ====
section
/-! SUPPORT. What an instruction can do, said once: every next state of `exec` is one of nine forms; and its bus
events account for the latches. -/

namespace Sys2Proof.Machine

open Sys2Proof

/-- An SD command: stream bytes taken, then response bytes answered. -/
theorem sdCommand_step (cmd : CmdCode) (arg : CmdArg) (crc n : Byte) (s : State) :
    ∃ u t rs, StreamOnly s u ∧ ResponseStep u t ∧
      sdCommand cmd arg crc n s = { t with results := rs ++ s.results } ∧
      (s.argPos ≤ 5 → t.argPos ≤ 5) := by
  have h1 := streamOnly_consumeAll (frameBytes cmd arg crc) s
  obtain ⟨t, rs, h2, h3, _⟩ := answers_step n.toNat (consumeAll (frameBytes cmd arg crc) s)
  refine ⟨_, t, rs, h1, h2, ?_, ?_⟩
  · unfold sdCommand
    rw [h3, show (consumeAll (frameBytes cmd arg crc) s).results = s.results by rw [h1]]
  · intro h
    rw [h2.only]
    exact consumeAll_argPos _ _ h

/-- `readMultiple` keeps the canonical form of host memory. -/
theorem multipleIn_mem (sec : Sector) (buf : Buffer) (s : State) (h : s.hostMem.Wf) :
    (multipleIn sec buf s).1.hostMem.Wf := (sectorIn_mem _ _ _ _).2 h

/-- The form of the next state of an instruction. -/
inductive Effect (s : State) (t : State) : Instr → Prop
  | bus (i : Instr) (h : BusOnly s { t with results := s.results })
      (idle : isPrimitive i = false → s.StrobesIdle → t.StrobesIdle) (latches : LatchStep s t) :
      Effect s t i
  | initialized (p : Bool) (h : t = returns (.mode (initDrive p s).2) (initDrive p s).1) :
      Effect s t (.initializeDrive p)
  | frame (i : Instr) (cmd : CmdCode) (arg : CmdArg) (crc n : Byte) 
      (hi : ∃ f, FrameRow s.cfg cmd f ∧ i = f arg crc n) (h : t = sdCommand cmd arg crc n s) : Effect s t i
  | stream (i : Instr) (b : Byte) (hi : IsStream i) (h : t = consume b s) : Effect s t i
  | answered (h : t = answer s) : Effect s t (.produceResponseByte s.cmd)
  | sectorRead (sec : Sector) (size : BitVec 16) (buf : Buffer) (u : State) (h : DataStep s u)
      (mem : s.hostMem.Wf → u.hostMem.Wf) (e : t = { u with results := t.results }) :
      Effect s t (.readSector sec size buf)
  | cursorRead (i : Instr) (r : Cursor) (u : State) (hi : ∃ sec buf, i = .readMultiple sec buf)
      (h : DataStep { s with rcur := r } u) (mem : s.hostMem.Wf → u.hostMem.Wf)
      (e : t = { u with results := t.results }) : Effect s t i
  | blockRead (i : Instr) (r : Cursor) (u : State) (hi : ∃ buf n, i = .receiveBlock buf n)
      (h : DataStep { s with rcur := r, readInProgress := true } u)
      (mem : s.hostMem.Wf → u.hostMem.Wf) (e : t = { u with results := t.results }) : Effect s t i
  | cursorWrite (i : Instr) (r : Cursor) (u : State)
      (hi : (∃ sec buf, i = .writeMultiple sec buf) ∨ ∃ buf n, i = .sendBlock buf n)
      (h : BusStep { s with wcur := r } u) (e : t = { u with results := t.results }) : Effect s t i

theorem BusStep.idle' {s t : State} (h : BusStep s t) (r : Ret) (hi : s.StrobesIdle) :
    (returns r t).StrobesIdle := ⟨(h.idle hi).rdIdle, (h.idle hi).wrIdle⟩

/-- Every next state of `exec` has one of those forms. -/
theorem exec_effect (i : Instr) (s t : State) (h : exec i s = .next t) : Effect s t i := by
  cases i
  case goIdleState a c n =>
    cases h; exact .frame _ _ _ _ _ ⟨_, .goIdleState, rfl⟩ rfl
  case sendIfCond a c n =>
    cases h; exact .frame _ _ _ _ _ ⟨_, .sendIfCond, rfl⟩ rfl
  case stopTransmission a c n =>
    cases h; exact .frame _ _ _ _ _ ⟨_, .stopTransmission, rfl⟩ rfl
  case readMultipleBlock a c n =>
    cases h; exact .frame _ _ _ _ _ ⟨_, .readMultipleBlock, rfl⟩ rfl
  case writeMultipleBlock a c n =>
    cases h; exact .frame _ _ _ _ _ ⟨_, .writeMultipleBlock, rfl⟩ rfl
  case sdSendOpCond a c n =>
    cases h; exact .frame _ _ _ _ _ ⟨_, .sdSendOpCond, rfl⟩ rfl
  case appCmd a c n => cases h; exact .frame _ _ _ _ _ ⟨_, .appCmd, rfl⟩ rfl
  case readOcr a c n => cases h; exact .frame _ _ _ _ _ ⟨_, .readOcr, rfl⟩ rfl
  case unrecognizedCommand a c n =>
    cases h; exact .frame _ _ _ _ _ ⟨_, .unrecognizedCommand _, rfl⟩ rfl
  case tokenStartBlock => cases h; exact .stream _ _ ⟨_, .tokenStartBlock⟩ rfl
  case tokenStopTran => cases h; exact .stream _ _ ⟨_, .tokenStopTran⟩ rfl
  case tokenIdleFF => cases h; exact .stream _ _ ⟨_, .tokenIdleFF⟩ rfl
  case tokenIgnored b => cases h; exact .stream _ _ ⟨_, .tokenIgnored _⟩ rfl
  case argByte b => cases h; exact .stream _ _ ⟨_, .argByte _⟩ rfl
  case crcByte b => cases h; exact .stream _ _ ⟨_, .crcByte _⟩ rfl
  case strayByte b => cases h; exact .stream _ _ ⟨_, .strayByte _⟩ rfl
  case consumeByte b => cases h; exact .stream _ _ ⟨_, .consumeByte _⟩ rfl
  case ataReadSectors => cases h; exact .bus _ rfl (fun _ => (busStep_issueCommand _ s).idle) (latchStep_writeReg _ _ s)
  case ataWriteSectors => cases h; exact .bus _ rfl (fun _ => (busStep_issueCommand _ s).idle) (latchStep_writeReg _ _ s)
  case ataInitDeviceParams => cases h; exact .bus _ rfl (fun _ => (busStep_issueCommand _ s).idle) (latchStep_writeReg _ _ s)
  case ataSetFeatures => cases h; exact .bus _ rfl (fun _ => (busStep_issueCommand _ s).idle) (latchStep_writeReg _ _ s)
  case setStrobe l st => cases l <;> (cases h; exact .bus _ rfl nofun (latchStep_driveStrobe _ st s))
  case setDataBusDirection d => cases h; exact .bus _ rfl nofun (latchStep_turnBus d s)
  case writeDataBus v =>
    simp only [exec, execWriteDataBus] at h
    split at h <;> cases h
    exact .bus _ rfl nofun (latchStep_loadData v s)
  case readDataBus =>
    simp only [exec, execReadDataBus] at h
    split at h <;> cases h
    exact .bus _ rfl nofun (latchStep_sampleBus s)
  case setRegisterAddress a => cases h; exact .bus _ rfl nofun (latchStep_loadAddress a s)
  case readRegister a =>
    cases h
    exact .bus _ rfl (fun _ => (busStep_readReg a s).idle' _) (latchStep_readReg a s)
  case writeRegister a v =>
    cases h
    exact .bus _ rfl (fun _ => (busStep_writeReg _ _ s).idle) (latchStep_writeReg a v s)
  case waitForStatus m =>
    cases h
    exact .bus _ (busOnly_returns (busOnly_waitStatus m s) _)
      (fun _ => (busStep_waitStatus m s).idle' _) (busStep_waitStatus m s).latches
  case initializeDrive p => cases h; exact .initialized _ rfl
  case readSector a b c =>
    simp only [exec, execReadSector] at h
    split at h
    · cases h
    · have e := withBuffer_next h
      exact .sectorRead _ _ _ _ (dataStep_sectorIn a b.toNat c s) (sectorIn_mem a b.toNat c s).2
        (by rw [e]; rfl)
  case writeSector a b =>
    rw [withBuffer_next h]
    exact .bus _ (busOnly_returns (busStep_sectorOut a b s).only _)
      (fun _ => (busStep_sectorOut a b s).idle' _) (busStep_sectorOut a b s).latches
  case readMultiple a b =>
    have e := withBuffer_next h
    exact .cursorRead _ _ _ ⟨_, _, rfl⟩ (multipleIn_frame a b s) (multipleIn_mem a b s)
      (by rw [e]; rfl)
  case writeMultiple a b =>
    have e := withBuffer_next h
    exact .cursorWrite _ _ _ (.inl ⟨_, _, rfl⟩) (multipleOut_frame a b s) (by rw [e]; rfl)
  case sendBlock b n =>
    have e := withBuffer_next h
    exact .cursorWrite _ _ _ (.inr ⟨_, _, rfl⟩) (multipleOut_frame s.arg b s) (by rw [e]; rfl)
  case receiveBlock b n =>
    have e := withBuffer_next h
    exact .blockRead _ _ _ ⟨_, _, rfl⟩ (multipleIn_frame s.arg b (beginReadSession s))
      (multipleIn_mem s.arg b (beginReadSession s)) (by rw [e]; rfl)
  case produceResponseByte c =>
    simp only [exec, execProduceResponseByte] at h
    split at h
    · next hc => cases h; subst hc; exact .answered rfl
    · cases h

/-- The bus events of any instruction account for the latches and the direction. -/
theorem exec_latchStep (i : Instr) (s t : State) (h : exec i s = .next t) : LatchStep s t := by
  have eff := exec_effect i s t h
  clear h
  cases eff with
  | bus _ _ _ hl => exact hl
  | initialized p h => subst h; exact (initDrive_frame p s).latches
  | frame _ cmd arg crc n _ h =>
    subst h
    obtain ⟨u, v, rs, h1, h2, h3, _⟩ := sdCommand_step cmd arg crc n s
    rw [h3]
    have hu : LatchStep s u := by unfold StreamOnly at h1; rw [h1]; exact LatchStep.refl s
    exact hu.trans h2.latches
  | stream _ b _ h =>
    subst h
    have h1 := streamOnly_consume b s
    unfold StreamOnly at h1
    rw [h1]
    exact LatchStep.refl s
  | answered h =>
    subst h
    obtain ⟨v, hv, he⟩ := answer_step s
    rw [he]
    exact hv.latches
  | sectorRead _ _ _ u h _ e => rw [e]; exact h.latches
  | cursorRead _ _ u _ h _ e => rw [e]; exact h.latches
  | blockRead _ _ u _ h _ e => rw [e]; exact h.latches
  | cursorWrite _ _ u _ h e => rw [e]; exact h.latches

/-- The same of a list of instructions. -/
theorem execAll_latchStep (is : List Instr) (s t : State) (h : execAll is s = .next t) :
    LatchStep s t := by
  induction is generalizing s with
  | nil => cases h; exact LatchStep.refl _
  | cons i is ih =>
    unfold execAll at h
    split at h
    · next u hu => exact (exec_latchStep i s u hu).trans (ih u h)
    · cases h
    · cases h

/-- The fields a stream byte leaves alone. -/
theorem StreamOnly.fields {s t : State} (h : StreamOnly s t) :
    t.rdState = s.rdState ∧ t.wrState = s.wrState ∧ t.mode = s.mode ∧
      t.busResolved = s.busResolved ∧ t.rcur = s.rcur ∧ t.wcur = s.wcur ∧ t.count = s.count ∧
      t.cfg = s.cfg ∧ t.hostMem = s.hostMem ∧ t.hostIn = s.hostIn := by
  unfold StreamOnly at h; rw [h]; simp

/-- The fields a response leaves alone. -/
theorem ResponseStep.fields {s t : State} (h : ResponseStep s t) :
    t.rcur = s.rcur ∧ t.wcur = s.wcur ∧ t.argPos = s.argPos ∧ t.cmd = s.cmd ∧ t.arg = s.arg ∧
      t.readInProgress = s.readInProgress ∧ t.writeInProgress = s.writeInProgress ∧
      t.cfg = s.cfg ∧ t.hostMem = s.hostMem ∧ t.hostIn = s.hostIn ∧ t.results = s.results := by
  rw [h.only]; simp

end Sys2Proof.Machine
end

