-- ==== Sys2Proof/Laws/Init.lean ====
section
/-! SUPPORT. The stages of `initialize` on given drive answers (R172 to R180). -/

namespace Sys2Proof.Machine

open Sys2Proof

/-- Stage S4 on given answers (R179). -/
theorem selectEightBit_run (e : Byte) (w rest : List Byte) (r : WaitResult) (s : State)
    (hd : s.driveIn = w ++ e :: rest) (hr : WaitRun s.cfg 0x00 w r) :
    ∃ t, selectEightBit s = (t, e) ∧
      Ran s t (writeTrace s.cfg.regErrFeat s.cfg.feat8Bit ++
        writeTrace s.cfg.regStatusCmd s.cfg.ataSetFeatures ++ readsTrace s.cfg.regStatusCmd w ++
        readTrace s.cfg.regErrFeat e) (waitLog r) rest := by
  have h1 := ran_writeReg s.cfg.regErrFeat s.cfg.feat8Bit s
  have h2 := h1.trans
    (ran_issueCommand s.cfg.ataSetFeatures (writeReg s.cfg.regErrFeat s.cfg.feat8Bit s))
  have hc := h2.cfg
  obtain ⟨t, ht, hw⟩ := ran_waitStatus 0x00 w (e :: rest) r _
    (h2.driveIn.trans (h1.driveIn.trans hd)) (hc ▸ hr)
  have hct := hw.cfg
  obtain ⟨u, hu, hv⟩ := ran_readReg s.cfg.regErrFeat e rest t hw.driveIn
  refine ⟨u, ?_, ?_⟩
  · simp only [selectEightBit]
    rw [ht]
    simp only [hct, hc, hu]
  · have := (h2.trans hw).trans hv
    rw [hc] at this
    simpa [List.append_assoc] using this

/-- Stage S3 with `preferLba` on given answers (R176, R177). -/
theorem selectAddressing_run (d : Byte) (w rest : List Byte) (r : WaitResult) (s : State)
    (hd : s.driveIn = w ++ d :: rest) (hr : WaitRun s.cfg 0x00 w r) :
    ∃ t, selectAddressing true s = (t, if d &&& s.cfg.dhLba ≠ 0 then .lba else .chs) ∧
      Ran s t (writeTrace s.cfg.regDriveHead 0xE0 ++
          writeTrace s.cfg.regStatusCmd s.cfg.ataInitParams ++ readsTrace s.cfg.regStatusCmd w ++
          readTrace s.cfg.regDriveHead d)
        ((if d &&& s.cfg.dhLba ≠ 0 then [] else [⟨.warning, .lbaUnsupported⟩]) ++ waitLog r)
        rest := by
  have h1 := ran_writeReg s.cfg.regDriveHead lbaDrive0 s
  have h2 := h1.trans
    (ran_issueCommand s.cfg.ataInitParams (writeReg s.cfg.regDriveHead lbaDrive0 s))
  have hc := h2.cfg
  obtain ⟨t, ht, hw⟩ := ran_waitStatus 0x00 w (d :: rest) r _
    (h2.driveIn.trans (h1.driveIn.trans hd)) (hc ▸ hr)
  have hct := hw.cfg
  obtain ⟨u, hu, hv⟩ := ran_readReg s.cfg.regDriveHead d rest t hw.driveIn
  have h4 := (h2.trans hw).trans hv
  rw [hc] at h4
  simp only [selectAddressing, if_true]
  rw [ht]
  simp only [hct, hc, hu]
  by_cases hl : d &&& s.cfg.dhLba ≠ 0
  · rw [if_pos hl, if_pos hl, if_pos hl]
    refine ⟨u, rfl, ?_⟩
    simpa [List.append_assoc, lbaDrive0] using h4
  · rw [if_neg hl, if_neg hl, if_neg hl]
    refine ⟨_, rfl, ?_⟩
    have h5 := h4.trans (ran_reportError .warning .lbaUnsupported u)
    rw [hv.driveIn] at h5
    simpa [List.append_assoc, lbaDrive0] using h5

/-- Stages S1 and S2 on given answers, when the drive gets ready (R172 to R174). -/
theorem initDrive_ready (probe : Byte) (ready rest : List Byte) (s : State) (p : Bool)
    (hm : s.mode = .notInitialized) (hd : s.driveIn = probe :: ready ++ rest)
    (hb : probe &&& s.cfg.stBsy ≠ 0) (hr : ReadyRun s.cfg ready) :
    ∃ t, initDrive p s = configureDrive p t ∧
      t.events = ([BusEvent.strobe .rd .negate, BusEvent.strobe .wr .negate] ++
        readsTrace s.cfg.regStatusCmd (probe :: ready)).reverse ++ s.events ∧
      t.driveIn = rest ∧ t.log = s.log ∧ t.rdState = .negate ∧ t.wrState = .negate ∧
      BusOnly { s with busResolved := true } t := by
  have hb0 := busStep_busSetup s
  obtain ⟨t, ht, h1⟩ := ran_readReg s.cfg.regStatusCmd probe (ready ++ rest) (busSetup s)
    (by simpa [busSetup] using hd)
  have hct : t.cfg = s.cfg := h1.cfg
  have hw := readyWait_ready ready rest t h1.driveIn (hct ▸ hr)
  have h2 := h1.trans (ran_afterReads t.cfg.regStatusCmd ready rest t h1.driveIn)
  refine ⟨afterReads t.cfg.regStatusCmd ready t, ?_, ?_, h2.driveIn, h2.log, h2.rdNegated rfl,
    h2.wrNegated rfl, hb0.only.trans h2.only⟩
  · simp only [initDrive, hm, handshake]
    rw [show (busSetup s).cfg = s.cfg from rfl, ht]
    refine (if_neg (by simpa [hct] using hb)).trans ?_
    simp only [hw, if_true]
  · rw [h2.events, hct]; simp [readsTrace, busSetup]

end Sys2Proof.Machine
end

