-- ==== Sys2Proof/Laws/PerInstr.lean ====
section
/-! SUPPORT. Per instruction: the format in which the item of an instruction arrives (R90) and how many bytes it has:
six and the count of response bytes for a frame (R91), one for a stream byte or an ATA command byte (R95, R104), and
the selector with its operands for a host-port operation (R112; log entries 2, 3). -/

namespace Sys2Proof.Laws.EncodedForm

open Sys2Proof

/-- The format and the number of bytes of an instruction's item. -/
def form : Instr → Format × Nat
  | .goIdleState _ _ _ => (.frame, 7)
  | .sendIfCond _ _ _ => (.frame, 7)
  | .stopTransmission _ _ _ => (.frame, 7)
  | .readMultipleBlock _ _ _ => (.frame, 7)
  | .writeMultipleBlock _ _ _ => (.frame, 7)
  | .sdSendOpCond _ _ _ => (.frame, 7)
  | .appCmd _ _ _ => (.frame, 7)
  | .readOcr _ _ _ => (.frame, 7)
  | .unrecognizedCommand _ _ _ _ => (.frame, 7)
  | .tokenStartBlock => (.stream, 1)
  | .tokenStopTran => (.stream, 1)
  | .tokenIdleFF => (.stream, 1)
  | .tokenIgnored _ => (.stream, 1)
  | .argByte _ => (.stream, 1)
  | .crcByte _ => (.stream, 1)
  | .strayByte _ => (.stream, 1)
  | .ataReadSectors => (.atacmd, 1)
  | .ataWriteSectors => (.atacmd, 1)
  | .ataInitDeviceParams => (.atacmd, 1)
  | .ataSetFeatures => (.atacmd, 1)
  | .setStrobe _ _ => (.port, 1 + PortOp.setStrobe.operandBytes)
  | .setDataBusDirection _ => (.port, 1 + PortOp.setDataBusDirection.operandBytes)
  | .writeDataBus _ => (.port, 1 + PortOp.writeDataBus.operandBytes)
  | .readDataBus => (.port, 1 + PortOp.readDataBus.operandBytes)
  | .setRegisterAddress _ => (.port, 1 + PortOp.setRegisterAddress.operandBytes)
  | .readRegister _ => (.port, 1 + PortOp.readRegister.operandBytes)
  | .writeRegister _ _ => (.port, 1 + PortOp.writeRegister.operandBytes)
  | .waitForStatus _ => (.port, 1 + PortOp.waitForStatus.operandBytes)
  | .initializeDrive _ => (.port, 1 + PortOp.initializeDrive.operandBytes)
  | .readSector _ _ _ => (.port, 1 + PortOp.readSector.operandBytes)
  | .writeSector _ _ => (.port, 1 + PortOp.writeSector.operandBytes)
  | .readMultiple _ _ => (.port, 1 + PortOp.readMultiple.operandBytes)
  | .writeMultiple _ _ => (.port, 1 + PortOp.writeMultiple.operandBytes)
  | .consumeByte _ => (.port, 1 + PortOp.consumeByte.operandBytes)
  | .produceResponseByte _ => (.port, 1 + PortOp.produceResponseByte.operandBytes)
  | .sendBlock _ _ => (.port, 1 + PortOp.sendBlock.operandBytes)
  | .receiveBlock _ _ => (.port, 1 + PortOp.receiveBlock.operandBytes)

/-- The item of the instruction has its format and its number of bytes, under every configuration. -/
def Statement (i : Instr) : Prop :=
  ∀ c : Config, ((encode c i).fmt, (encode c i).bytes.length) = form i

theorem goIdleState (arg : CmdArg) (crc : Byte) (reads : Byte) :
    Statement (.goIdleState arg crc reads) := fun _ => rfl

theorem sendIfCond (arg : CmdArg) (crc : Byte) (reads : Byte) :
    Statement (.sendIfCond arg crc reads) := fun _ => rfl

theorem stopTransmission (arg : CmdArg) (crc : Byte) (reads : Byte) :
    Statement (.stopTransmission arg crc reads) := fun _ => rfl

theorem readMultipleBlock (arg : CmdArg) (crc : Byte) (reads : Byte) :
    Statement (.readMultipleBlock arg crc reads) := fun _ => rfl

theorem writeMultipleBlock (arg : CmdArg) (crc : Byte) (reads : Byte) :
    Statement (.writeMultipleBlock arg crc reads) := fun _ => rfl

theorem sdSendOpCond (arg : CmdArg) (crc : Byte) (reads : Byte) :
    Statement (.sdSendOpCond arg crc reads) := fun _ => rfl

theorem appCmd (arg : CmdArg) (crc : Byte) (reads : Byte) :
    Statement (.appCmd arg crc reads) := fun _ => rfl

theorem readOcr (arg : CmdArg) (crc : Byte) (reads : Byte) :
    Statement (.readOcr arg crc reads) := fun _ => rfl

theorem unrecognizedCommand (cmd : CmdCode) (arg : CmdArg) (crc : Byte) (reads : Byte) :
    Statement (.unrecognizedCommand cmd arg crc reads) := fun _ => rfl

theorem tokenStartBlock :
    Statement (.tokenStartBlock) := fun _ => rfl

theorem tokenStopTran :
    Statement (.tokenStopTran) := fun _ => rfl

theorem tokenIdleFF :
    Statement (.tokenIdleFF) := fun _ => rfl

theorem tokenIgnored (value : Byte) :
    Statement (.tokenIgnored value) := fun _ => rfl

theorem argByte (value : Byte) :
    Statement (.argByte value) := fun _ => rfl

theorem crcByte (value : Byte) :
    Statement (.crcByte value) := fun _ => rfl

theorem strayByte (value : Byte) :
    Statement (.strayByte value) := fun _ => rfl

theorem ataReadSectors :
    Statement (.ataReadSectors) := fun _ => rfl

theorem ataWriteSectors :
    Statement (.ataWriteSectors) := fun _ => rfl

theorem ataInitDeviceParams :
    Statement (.ataInitDeviceParams) := fun _ => rfl

theorem ataSetFeatures :
    Statement (.ataSetFeatures) := fun _ => rfl

theorem setStrobe (line : StrobeLine) (state : StrobeState) :
    Statement (.setStrobe line state) := fun _ => rfl

theorem setDataBusDirection (dir : Direction) :
    Statement (.setDataBusDirection dir) := fun _ => rfl

theorem writeDataBus (value : Byte) :
    Statement (.writeDataBus value) := fun _ => rfl

theorem readDataBus :
    Statement (.readDataBus) := fun _ => rfl

theorem setRegisterAddress (addr : RegAddr) :
    Statement (.setRegisterAddress addr) := fun _ => rfl

theorem readRegister (addr : RegAddr) :
    Statement (.readRegister addr) := fun _ => rfl

theorem writeRegister (addr : RegAddr) (value : Byte) :
    Statement (.writeRegister addr value) := fun _ => rfl

theorem waitForStatus (mask : Byte) :
    Statement (.waitForStatus mask) := fun _ => rfl

theorem initializeDrive (preferLba : Bool) :
    Statement (.initializeDrive preferLba) := fun _ => rfl

theorem readSector (sector : Sector) (size : BitVec 16) (buf : Buffer) :
    Statement (.readSector sector size buf) := fun _ => rfl

theorem writeSector (sector : Sector) (buf : Buffer) :
    Statement (.writeSector sector buf) := fun _ => rfl

theorem readMultiple (sector : Sector) (buf : Buffer) :
    Statement (.readMultiple sector buf) := fun _ => rfl

theorem writeMultiple (sector : Sector) (buf : Buffer) :
    Statement (.writeMultiple sector buf) := fun _ => rfl

theorem consumeByte (value : Byte) :
    Statement (.consumeByte value) := fun _ => rfl

theorem produceResponseByte (command : CmdCode) :
    Statement (.produceResponseByte command) := fun _ => rfl

theorem sendBlock (buf : Buffer) (length : BitVec 16) :
    Statement (.sendBlock buf length) := fun _ => rfl

theorem receiveBlock (buf : Buffer) (length : BitVec 16) :
    Statement (.receiveBlock buf length) := fun _ => rfl

end Sys2Proof.Laws.EncodedForm
end

