-- ==== Sys2Proof/Laws/Reset.lean ====
section
/-! SUPPORT. The configuration a run starts with is well formed, whatever the free response table is. -/

namespace Sys2Proof.Machine

open Sys2Proof

/-- The lengths of the free response table lie in the range of R108. -/
theorem freeLen_range (e : Entry) : 1 ≤ Config.freeLen e ∧ Config.freeLen e ≤ 255 := by
  have h1 := Nat.mod_lt (Config.freeRespLen .readNext) (show 0 < 254 by decide)
  have h2 := Nat.mod_lt (Config.freeRespLen .readFirst)
    (show 0 < 254 - Config.freeRespLen .readNext % 254 by omega)
  cases e <;> simp only [Config.freeLen] <;> omega

theorem default_row (e : Entry) : Config.default.resp.get e = Config.freeRow e := by
  simp [Config.default]

theorem default_respLen (e : Entry) : Config.default.respLen e = Config.freeLen e := by
  have h := freeLen_range e
  unfold Config.respLen
  rw [default_row]
  simp only [Config.freeRow, BitVec.toNat_ofNat]
  omega

/-- The default configuration meets the constraints of R98, R108 and R109. -/
theorem default_wf : Config.default.Wf := by
  refine ⟨by decide, by decide, by decide, ?_, ?_⟩
  · intro e _
    have h := freeLen_range e
    rw [default_row]
    simp only [Config.freeRow, RespRowWf, BitVec.toNat_ofNat, List.length_map, List.length_range]
    omega
  · rw [default_respLen, default_respLen]
    simp only [Config.freeLen]; omega

end Sys2Proof.Machine
end

