-- ==== Sys2Proof/Tests/Slice0.lean ====
section
/-! SUPPORT. Tests: ill-formed instructions refused, every constructor decoded from a word written out from the spec's
encodings, single steps whose expected results are the vectors of spec/95_test_vectors.md, and for every statement
with hypotheses a state and operands that meet them. -/

namespace Sys2Proof.Tests

open Sys2Proof Sys2Proof.Machine

/-! ## Well-formedness: each check refuses an ill-formed term -/

/-- 18 is a recognized code (R98). -/
theorem test_wf_recognized_code_refused :
    Instr.wf Config.default (.unrecognizedCommand 18 0 0 0) = false := by decide

/-- `0xFC` acts and `0x7F` is no token (R228). -/
theorem test_wf_acting_token_refused :
    Instr.wf Config.default (.tokenIgnored 0xFC) = false ∧
      Instr.wf Config.default (.tokenIgnored 0x7F) = false := by decide

/-- `0xF0` is a token and `0x40` a command byte (R227). -/
theorem test_wf_token_is_no_stray_byte :
    Instr.wf Config.default (.strayByte 0xF0) = false ∧
      Instr.wf Config.default (.strayByte 0x40) = false := by decide

/-- The positions at which rows do not apply (R95). -/
theorem test_positions_refused :
    Instr.atPosition 1 .tokenStartBlock = false ∧ Instr.atPosition 0 (.argByte 0) = false ∧
      Instr.atPosition 5 (.argByte 0) = false ∧ Instr.atPosition 4 (.crcByte 0) = false ∧
      Instr.atPosition 1 (.strayByte 0) = false := by decide

/-! ## Decoding: words written out from the spec's encodings -/

/-- FRAME rows (R91, R92, R98): `01`, the six code bits, the argument, the checksum. -/
theorem test_decode_frames :
    decodeTableWord 48 0b010000000000000100100011010001010110011110010101 =
        some (.goIdleState 0x01234567 0x95 0) ∧
      decodeTableWord 48 0x48000001AA87 = some (.sendIfCond 0x1AA 0x87 0) ∧
      decodeTableWord 48 0x4C00000000FF = some (.stopTransmission 0 0xFF 0) ∧
      decodeTableWord 48 0x5200000064FF = some (.readMultipleBlock 0x64 0xFF 0) ∧
      decodeTableWord 48 0x591234567801 = some (.writeMultipleBlock 0x12345678 1 0) ∧
      decodeTableWord 48 0x694000000077 = some (.sdSendOpCond 0x40000000 0x77 0) ∧
      decodeTableWord 48 0x770000000065 = some (.appCmd 0 0x65 0) ∧
      decodeTableWord 48 0x7A00000000FD = some (.readOcr 0 0xFD 0) ∧
      decodeTableWord 48 0x5100000000FF = some (.unrecognizedCommand 17 0 0xFF 0) := by decide

/-- TOKEN rows (R96), between frames. -/
theorem test_decode_tokens :
    decodeTableWord 8 0xFC = some .tokenStartBlock ∧ decodeTableWord 8 0xFD = some .tokenStopTran ∧
      decodeTableWord 8 0xFF = some .tokenIdleFF ∧
      decodeTableWord 8 0xF0 = some (.tokenIgnored 0xF0) := by decide

/-- BYTE rows (R95), by position; a token value inside a frame is data; a lone command byte. -/
theorem test_decode_bytes :
    decode Config.default 1 ⟨.stream, [0xFC]⟩ = .ok (.argByte 0xFC) ∧
      decode Config.default 4 ⟨.stream, [0x40]⟩ = .ok (.argByte 0x40) ∧
      decode Config.default 5 ⟨.stream, [0xFF]⟩ = .ok (.crcByte 0xFF) ∧
      decode Config.default 0 ⟨.stream, [0xEF]⟩ = .ok (.strayByte 0xEF) ∧
      decode Config.default 0 ⟨.stream, [0x51]⟩ = .ok (.consumeByte 0x51) := by decide

/-- ATACMD rows (R104). -/
theorem test_decode_ata :
    decodeTableWord 8 0x20 = some .ataReadSectors ∧ decodeTableWord 8 0x30 = some .ataWriteSectors ∧
      decodeTableWord 8 0x91 = some .ataInitDeviceParams ∧
      decodeTableWord 8 0xEF = some .ataSetFeatures ∧
      decode Config.default 0 ⟨.atacmd, [0x21]⟩ = .error .notAnAtaCommand := by decide

/-- PORT rows (R112), with operand bytes of zeros, and the defaults of R154 and R170. -/
theorem test_decode_port_selectors :
    decodeTableWord 8 0b00000 = some (.setStrobe .rd .assert) ∧
      decodeTableWord 8 0b00001 = some (.setDataBusDirection .input) ∧
      decodeTableWord 8 0b00010 = some (.writeDataBus 0) ∧
      decodeTableWord 8 0b00011 = some .readDataBus ∧
      decodeTableWord 8 0b00100 = some (.setRegisterAddress 0) ∧
      decodeTableWord 8 0b01000 = some (.readRegister 0) ∧
      decodeTableWord 8 0b01001 = some (.writeRegister 0 0) ∧
      decodeTableWord 8 0b01010 = some (.waitForStatus 0) ∧
      decodeTableWord 8 0b01011 = some (.initializeDrive true) ∧
      decodeTableWord 8 0b01100 = some (.readSector 0 0 ⟨0, 512⟩) ∧
      decodeTableWord 8 0b01101 = some (.writeSector 0 ⟨0, 512⟩) ∧
      decodeTableWord 8 0b01110 = some (.readMultiple 0 ⟨0, 512⟩) ∧
      decodeTableWord 8 0b01111 = some (.writeMultiple 0 ⟨0, 512⟩) ∧
      decodeTableWord 8 0b10000 = some (.consumeByte 0) ∧
      decodeTableWord 8 0b10001 = some (.produceResponseByte 0) ∧
      decodeTableWord 8 0b10010 = some (.sendBlock ⟨0, 512⟩ 0) ∧
      decodeTableWord 8 0b10011 = some (.receiveBlock ⟨0, 512⟩ 0) := by decide

/-- The model's own operand bytes (log entry 2). -/
theorem test_decode_port_operands :
    decode Config.default 0 ⟨.port, [0, 1, 2]⟩ = .ok (.setStrobe .wr .highZ) ∧
      decode Config.default 0 ⟨.port, [9, 6, 0xE0]⟩ = .ok (.writeRegister 6 0xE0) ∧
      decode Config.default 0 ⟨.port, [12, 1, 0x23, 0x45, 0x67, 0, 2, 0, 0, 0x10, 0, 0, 0]⟩ =
        .ok (.readSector 0x1234567 2 ⟨0x1000, 512⟩) := by decide

/-- What the decoder refuses, by name. -/
theorem test_decode_refuses :
    decode Config.default 0 ⟨.port, [5]⟩ = .error .noSuchSelector ∧
      decode Config.default 0 ⟨.port, [8, 8]⟩ = .error .badOperand ∧
      decode Config.default 0 ⟨.port, [8]⟩ = .error .wrongLength ∧
      decode Config.default 0 ⟨.frame, [0x80, 0, 0, 0, 0, 0, 0]⟩ = .error .notACommandByte := by
  decide

/-! ## Single steps -/

/-- Rows of a response table with the lengths of spec/95_test_vectors.md section 2.8; the bytes name the entry and
the index. -/
def rows : PerEntry (List Byte) where
  idle := [1, 0x01]
  idleErr := [1, 0x11]
  ifCond := [5, 0x21, 0x22, 0x23, 0x24, 0x25]
  stop := [1, 0x31]
  readFirst := [2, 0x41, 0x42]
  readNext := [1, 0x51]
  wrStart := [1, 0x61]
  wrEnd1 := [2, 0x71, 0x72]
  wrEndN := [1, 0x81]
  wrNext := [1, 0x91]
  appCmd := [1, 0xA1]
  opCond := [1, 0xB1]
  ocr := [1, 0xC1]

/-- The reset state with those rows, `n` status polls, and pending drive answers. -/
def start (n : Nat) (answers : List Byte) : State :=
  { State.reset with
    cfg := { Config.default with resp := rows, statusTimeoutMs := n }, driveIn := answers }

/-- A view of the next state. -/
def view {α : Type} (f : State → α) : Host.Outcome State Fault Refusal → Option α
  | .next t => some (f t)
  | .fault _ => none
  | .refused _ => none

/-- The reason of a refusal. -/
def refusal : Host.Outcome State Fault Refusal → Option Refusal
  | .next _ => none
  | .fault _ => none
  | .refused r => some r

/-- VB1, VB2. -/
theorem test_setStrobe :
    view (fun t => (t.rdState, t.wrState, t.trace)) (exec (.setStrobe .rd .negate) (start 2 [])) =
        some (.negate, .highZ, [.strobe .rd .negate]) ∧
      view (fun t => (t.rdState, t.wrState))
        (exec (.setStrobe .wr .assert) { start 2 [] with rdState := .negate }) =
        some (.negate, .assert) := by decide

/-- VB5. -/
theorem test_setDataBusDirection :
    view (fun t => (t.dir, t.dout, t.trace)) (exec (.setDataBusDirection .input)
      { start 2 [] with dir := .output, dout := 0xA5 }) =
      some (.input, 0xA5, [.direction .input]) := by decide

/-- VB4, VB7. -/
theorem test_writeDataBus :
    view (fun t => (t.dout, t.trace, t.dataPins)) (exec (.writeDataBus 0xA5)
        { start 2 [] with dir := .output }) = some (0xA5, [.load 0xA5], .driven 0xA5) ∧
      refusal (exec (.writeDataBus 0) (start 2 [])) = some .writeBusWhileInput := by decide

/-- R134's example, VB8. -/
theorem test_readDataBus :
    view (fun t => (t.results, t.trace)) (exec .readDataBus (start 2 [0x50])) =
        some ([.byte 0x50], [.sample 0x50]) ∧
      refusal (exec .readDataBus { start 2 [] with dir := .output }) =
        some .readBusWhileOutput := by
  decide

/-- VB6. -/
theorem test_setRegisterAddress :
    view (fun t => (t.addr, t.trace, t.addrPins)) (exec (.setRegisterAddress 5) (start 2 [])) =
      some (5, [.address 5], .driven 5) := by decide

/-- VA1, VA4. -/
theorem test_readRegister :
    view (fun t => (t.results, t.trace)) (exec (.readRegister 7) (start 2 [0x50])) =
        some ([.byte 0x50], [.strobe .rd .negate, .direction .input, .address 7,
          .strobe .rd .assert, .sample 0x50, .strobe .rd .negate]) ∧
      view (fun t => (t.rdState, t.wrState, t.dir, t.addr)) (exec (.readRegister 1)
        { start 2 [0] with rdState := .assert }) = some (.negate, .highZ, .input, 1) := by decide

/-- VA2. -/
theorem test_writeRegister :
    view (fun t => (t.rdState, t.wrState, t.dir, t.dout, t.addr))
        (exec (.writeRegister 6 0xE0) { start 2 [] with rdState := .negate }) =
        some (.negate, .negate, .output, 0xE0, 6) ∧
      view (fun t => t.trace) (exec (.writeRegister 6 0xE0) (start 2 [])) =
        some [.strobe .wr .negate, .direction .output, .load 0xE0, .address 6,
          .strobe .wr .assert, .strobe .wr .negate] := by decide

/-- R70, R104: a command byte goes to register 7. -/
theorem test_ata_commands :
    view (fun t => (t.addr, t.dout)) (exec .ataReadSectors (start 2 [])) = some (7, 0x20) ∧
      view (fun t => (t.addr, t.dout)) (exec .ataWriteSectors (start 2 [])) = some (7, 0x30) ∧
      view (fun t => (t.addr, t.dout)) (exec .ataInitDeviceParams (start 2 [])) = some (7, 0x91) ∧
      view (fun t => (t.addr, t.dout)) (exec .ataSetFeatures (start 2 [])) = some (7, 0xEF) := by
  decide

/-- The samples of a trace, in order. -/
def samples (t : State) : List Byte :=
  t.trace.filterMap (fun e => match e with
    | .sample v => some v
    | .strobe _ _ => none
    | .direction _ => none
    | .load _ => none
    | .address _ => none)

/-- The register writes of a trace, in order: the loads and addresses. -/
def writes (t : State) : List BusEvent :=
  t.trace.filter (fun e => match e with
    | .load _ => true
    | .strobe .wr .assert => true
    | .strobe _ _ => false
    | .direction _ => false
    | .address _ => false
    | .sample _ => false)

/-- VW3. -/
theorem test_waitForStatus_ok :
    view (fun t => (t.results, samples t, t.log)) (exec (.waitForStatus 0x08)
      (start 3 [0xD8, 0x58, 0x00])) = some ([.wait .ok], [0xD8, 0x58], []) := by decide

/-- VW2. -/
theorem test_waitForStatus_timeout :
    view (fun t => (t.results, samples t, t.log)) (exec (.waitForStatus 0x08)
      (start 3 [0x50, 0x50, 0x50, 0x58])) =
      some ([.wait .timeout], [0x50, 0x50, 0x50], [⟨.warning, .statusTimeout⟩]) := by decide

/-- VI1. -/
theorem test_initialize_lba :
    view (fun t => ((t.mode, t.busResolved), t.results, t.log, t.driveIn)) (exec (.initializeDrive true)
      (start 2 [0x80, 0x80, 0x50, 0x50, 0xE0, 0x50, 0x00])) =
      some ((.lba, true), [.mode .lba], [], []) := by decide

/-- VI8. -/
theorem test_initialize_aborted :
    view (fun t => (t.mode, t.results, t.log)) (exec (.initializeDrive true)
      (start 2 [0x80, 0x50, 0x50, 0xA0, 0x51, 0x04])) =
      some (.notInitialized, [.mode .notInitialized],
        [⟨.error, .transferModeUnsupported⟩, ⟨.warning, .lbaUnsupported⟩]) := by decide

/-- VSR1. -/
theorem test_readSector :
    view (fun t => (t.results, t.hostMem, (writes t).filter (· ≠ .strobe .wr .assert)))
      (exec (.readSector 0x1234567 2 ⟨0x100, 512⟩) (start 2 [0x58, 0xAA, 0x55])) =
      some ([.number 2], [(0x100, 0xAA), (0x101, 0x55)],
        [.load 0x67, .load 0x45, .load 0x23, .load 0xE1, .load 0x20]) := by decide

/-- VSR3. -/
theorem test_readSector_timeout :
    view (fun t => (t.results, t.hostMem, t.log))
      (exec (.readSector 0 512 ⟨0, 512⟩) (start 2 [0x80, 0x80])) =
      some ([.number 0], [], [⟨.error, .statusTimeout⟩, ⟨.warning, .statusTimeout⟩]) := by decide

/-- VSW3, and the nibble of VSW4. -/
theorem test_writeSector_timeout :
    view (fun t => (t.results, (writes t).filter (· ≠ .strobe .wr .assert), t.log))
      (exec (.writeSector 0x01000005 ⟨0, 512⟩) (start 2 [0xFF, 0x80, 0x80])) =
      some ([.number 0], [.load 5, .load 0, .load 0, .load 0xF1, .load 0x30],
        [⟨.error, .statusTimeout⟩, ⟨.warning, .statusTimeout⟩]) := by decide

/-- VC4: the cursor advances after a failed read. -/
theorem test_readMultiple :
    view (fun t => (t.results, t.rcur, t.wcur))
      (exec (.readMultiple 100 ⟨0, 512⟩) { start 0 [] with rcur := ⟨100, 101⟩ }) =
      some ([.number 0], ⟨100, 102⟩, ⟨0, 0⟩) := by decide

/-- VC8: another start re-anchors. -/
theorem test_writeMultiple :
    view (fun t => (t.results, t.wcur, (writes t).take 1))
      (exec (.writeMultiple 9 ⟨0, 512⟩) { start 0 [0xE0] with wcur := ⟨7, 8⟩ }) =
      some ([.number 0], ⟨9, 10⟩, [.load 9]) := by decide

/-- VD1 (with R225's example): one argument byte; VD18: no token action inside a frame. -/
theorem test_argByte :
    view (fun t => (t.argPos, t.arg, t.sectorsWritten)) (exec (.argByte 0xFC)
      { start 2 [] with argPos := 3, cmd := 18, arg := 0x12 }) = some (4, 0x12FC, 0) := by decide

/-- VD10: the checksum `0xFF` is no token. -/
theorem test_crcByte :
    view (fun t => (t.argPos, t.cmd, t.readInProgress)) (exec (.crcByte 0xFF)
      { start 2 [] with argPos := 5, cmd := 12, readInProgress := true }) =
      some (0, 12, true) := by decide

/-- VD16. -/
theorem test_strayByte :
    view (fun t => (t.argPos, t.cmd, t.arg)) (exec (.strayByte 0x80)
      { start 2 [] with cmd := 18, arg := 0x64 }) = some (1, 18, 0x6480) := by decide

/-- VD12. -/
theorem test_consumeByte :
    view (fun t => (t.argPos, t.cmd, t.arg)) (exec (.consumeByte 0x7F)
      { start 2 [] with arg := 5 }) = some (1, 63, 0) := by decide

/-- VD6, VD7. -/
theorem test_tokens_count :
    view (fun t => (t.sectorsWritten, t.writeInProgress)) (exec .tokenStartBlock
        { start 2 [] with sectorsWritten := 1, writeInProgress := true }) = some (2, true) ∧
      view (fun t => (t.sectorsWritten, t.writeInProgress)) (exec .tokenStopTran
        { start 2 [] with sectorsWritten := 2, writeInProgress := true }) = some (2, false) := by
  decide

/-- VD8, VD9. -/
theorem test_tokenIdleFF :
    view (fun t => t.readInProgress) (exec .tokenIdleFF
        { start 2 [] with cmd := 12, readInProgress := true }) = some false ∧
      view (fun t => t.readInProgress) (exec .tokenIdleFF
        { start 2 [] with cmd := 18, readInProgress := true }) = some true := by decide

/-- VD13. -/
theorem test_tokenIgnored : exec (.tokenIgnored 0xFE) (start 2 []) = .next (start 2 []) := rfl

/-- VD2, VD3: frames delivered, nothing dispatched. -/
theorem test_frames_delivered :
    view (fun t => (t.argPos, t.cmd, t.arg, t.results))
        (exec (.writeMultipleBlock 0x12345678 1 0) (start 2 [])) = some (0, 25, 0x12345678, []) ∧
      view (fun t => (t.argPos, t.cmd, t.arg, t.sectorsWritten))
        (exec (.readMultipleBlock 0xFCFDFF40 0x95 0) (start 2 [])) =
        some (0, 18, 0xFCFDFF40, 0) := by decide

/-- VP4: six response bytes of SEND_IF_COND, newest first. -/
theorem test_sendIfCond :
    view (fun t => (t.results, t.count.ifCond)) (exec (.sendIfCond 0x1AA 0x87 6) (start 2 [])) =
      some ([.byte 0x21, .byte 0x25, .byte 0x24, .byte 0x23, .byte 0x22, .byte 0x21], 1) := by
  decide

/-- VP13, VP14, VP15, VP12: the other fixed responses. -/
theorem test_fixed_responses :
    view (fun t => t.results) (exec (.sdSendOpCond 0 0 1) (start 2 [])) = some [.byte 0xB1] ∧
      view (fun t => t.results) (exec (.appCmd 0 0 1) (start 2 [])) = some [.byte 0xA1] ∧
      view (fun t => (t.results, t.readInProgress)) (exec (.stopTransmission 0 0 1)
        { start 2 [] with readInProgress := true }) = some ([.byte 0x31], true) ∧
      view (fun t => t.results) (exec (.readOcr 0 0 1) (start 2 [])) = some [.byte 0xC1] := by
  decide

/-- VP5, VP6. -/
theorem test_readMultipleBlock :
    view (fun t => (t.results, t.count.readFirst)) (exec (.readMultipleBlock 0 0 2) (start 2 [])) =
        some ([.byte 0x42, .byte 0x41], 0) ∧
      view (fun t => t.results) (exec (.readMultipleBlock 0 0 2)
        { start 2 [] with readInProgress := true }) = some [.byte 0x51, .byte 0x51] := by decide

/-- VP9, VP10. -/
theorem test_writeMultipleBlock :
    view (fun t => (t.results, t.sectorsWritten)) (exec (.writeMultipleBlock 0 0 3)
        { start 2 [] with sectorsWritten := 1 }) =
        some ([.byte 0x61, .byte 0x72, .byte 0x71], 0) ∧
      view (fun t => (t.results, t.sectorsWritten)) (exec (.writeMultipleBlock 0 0 1)
        { start 2 [] with sectorsWritten := 2 }) = some ([.byte 0x81], 0) := by decide

/-- VP2, VP3. -/
theorem test_goIdleState :
    view (fun t => (t.results, t.mode, t.log)) (exec (.goIdleState 0 0x95 1) (start 2 [0x50])) =
        some ([.byte 0x11], .notInitialized, [⟨.error, .driveAbsent⟩]) ∧
      view (fun t => (t.results, t.events)) (exec (.goIdleState 0 0x95 1)
        { start 2 [] with mode := .chs }) = some ([.byte 0x11], []) := by decide

/-- VP1, VP7. -/
theorem test_produceResponseByte :
    view (fun t => (t.results, t.count.idle, t.events)) (exec (.produceResponseByte 0)
        { start 2 [] with mode := .lba }) = some ([.byte 0x01], 0, []) ∧
      view (fun t => (t.results, t.sectorsWritten)) (exec (.produceResponseByte 25)
        { start 2 [] with cmd := 25, writeInProgress := true, sectorsWritten := 3 }) =
        some ([.byte 0x91], 3) := by decide

/-- VP11 (and S5). -/
theorem test_unrecognizedCommand :
    view (fun t => (t.results, t.log)) (exec (.unrecognizedCommand 17 0 0xFF 2) (start 2 [])) =
      some ([.byte 0, .byte 0], [⟨.warning, .unknownCommand 17 0⟩,
        ⟨.warning, .unknownCommand 17 0⟩]) := by decide

/-- VK3's cursor, on a write that times out. -/
theorem test_sendBlock :
    view (fun t => (t.wcur, t.sectorsWritten, t.writeInProgress)) (exec (.sendBlock ⟨0, 512⟩ 512)
      { start 0 [0xE0] with arg := 0x10 }) = some (⟨0x10, 0x11⟩, 0, false) := by decide

/-- VK4. -/
theorem test_receiveBlock :
    view (fun t => (t.results, t.readInProgress, t.rcur, t.hostMem))
      (exec (.receiveBlock ⟨0, 512⟩ 512) { start 2 [0x80, 0x80] with arg := 0x64 }) =
      some ([.number 0], true, ⟨100, 101⟩, []) := by decide

/-- A step from reset with a word of the table pending. -/
theorem test_step_runs_the_word :
    view (fun t => (t.cmd, t.arg, t.hostIn)) (step (State.reset.withFetchWord 48 0x5200000064FF)) =
        some (18, 0x64, []) ∧
      view (fun t => (t.argPos, t.arg)) (step
        ((start 2 []).withFetchWord 8 0b00001)) = some (0, 0) := by decide

/-! ## Witnesses: states and operands that meet the hypotheses of each statement -/

theorem rows_len_pos : ∀ e, 0 < (start 0 []).cfg.respLen e := by
  intro e; cases e <;> decide

/-- A state that meets the invariant, with every emission cursor at the start of its entry. -/
theorem start_inv (n : Nat) (answers : List Byte) : (start n answers).Inv where
  cfgWf := by
    show { Config.default with resp := rows, statusTimeoutMs := n }.Wf
    refine ⟨by show Config.default.sdCodes.Nodup; decide, by show _ ∉ Config.default.sdCodes; decide,
      by show Config.default.ataCodes.Nodup; decide, ?_, by show (1 : Nat) < 2; decide⟩
    intro e _
    cases e <;> exact ⟨by decide, by decide⟩
  argPosBound := Nat.zero_le 5
  countBound := by intro e; have h := rows_len_pos e; cases e <;> exact h
  memWf := reset_hostMem_wf

/-- The hypotheses of a state differ from those of `start` in fields the invariant does not look at. -/
theorem inv_of_eq {s t : State} (h : s.Inv) (h1 : t.cfg = s.cfg) (h2 : t.argPos = s.argPos)
    (h3 : t.count = s.count) (h4 : t.hostMem = s.hostMem) : t.Inv :=
  ⟨h1 ▸ h.cfgWf, h2 ▸ h.argPosBound, by rw [h1, h3]; exact h.countBound, h4 ▸ h.memWf⟩

theorem witness_SetDirectionKeepsTheLatch :
    { start 2 [] with dout := 0xA5, doutWritten := true }.doutWritten = true := by decide

/-- Direction `Input` and one more operation that does not turn the bus to `Output`. -/
theorem witness_SetDirectionKeepsTheLatch_until :
    execAll [.readRegister 7] { start 2 [0x50] with events := [.direction .input] } =
        .next (returns (.byte 0x50) (readReg 7 { start 2 [0x50] with events := [.direction .input] }).1) ∧
      BusEvent.direction .output ∉ readTrace 7 0x50 := ⟨rfl, by decide⟩

theorem witness_WriteDataBusLoadsTheLatch :
    { start 2 [] with dir := .output }.dir = .output := by decide

/-- A byte on the pins and one more operation that neither loads the latch nor turns the bus. -/
theorem witness_WriteDataBusLoadsTheLatch_until :
    execAll [.setStrobe .wr .assert]
        (loadData 0xA5 { start 2 [] with dir := .output }) =
        .next (driveStrobe .wr .assert (loadData 0xA5 { start 2 [] with dir := .output })) ∧
      (driveStrobe .wr .assert (loadData 0xA5 { start 2 [] with dir := .output })).trace =
        (loadData 0xA5 { start 2 [] with dir := .output }).trace ++ [.strobe .wr .assert] ∧
      ∀ e ∈ [BusEvent.strobe .wr .assert], ¬ (IsLoad e ∨ e = .direction .input) :=
  ⟨rfl, rfl, by simp [IsLoad]⟩

/-- An address on the pins and one more operation that does not load the latch. -/
theorem witness_SetRegisterAddressLoadsTheLatch_until :
    execAll [.setStrobe .rd .assert] (loadAddress 7 (start 2 [])) =
        .next (driveStrobe .rd .assert (loadAddress 7 (start 2 []))) ∧
      (driveStrobe .rd .assert (loadAddress 7 (start 2 []))).trace =
        (loadAddress 7 (start 2 [])).trace ++ [.strobe .rd .assert] ∧
      ∀ e ∈ [BusEvent.strobe .rd .assert], ¬ IsAddress e :=
  ⟨rfl, rfl, by simp [IsAddress]⟩

theorem witness_ReadDataBusReturnsTheDrivesByte :
    (start 2 [0x50]).dir = .input ∧ (start 2 [0x50]).driveIn = 0x50 :: [] := by decide

theorem witness_PinsFollowTheState :
    (start 2 []).rdState = .highZ ∧ (start 2 []).wrState = .highZ ∧ (start 2 []).dir = .input ∧
      { start 2 [] with rdState := .assert, wrState := .negate }.rdState = .assert ∧
      { start 2 [] with rdState := .negate, wrState := .assert }.wrState = .assert ∧
      { start 2 [] with dir := .output, doutWritten := true }.doutWritten = true ∧
      { start 2 [] with addrWritten := true }.addrWritten = true := by decide

theorem witness_EachPrimitiveIsOneBusEvent :
    isPrimitive .readDataBus = true ∧ isPrimitive (.setRegisterAddress 7) = true ∧
      (view (fun _ => true) (exec .readDataBus (start 2 [0x50]))) = some true ∧
      (view (fun _ => true) (exec (.setRegisterAddress 7) (start 2 []))) = some true := by decide

/-- Each clause at its boundary. -/
theorem witness_CallsOutsideTheContractAreRefused :
    (start 2 []).dir = .input ∧ { start 2 [] with dir := .output }.dir = .output ∧
      512 < (513#16).toNat ∧ (512#16).toNat ≤ 512 ∧ (⟨0, 511⟩ : Buffer).cap.toNat < (512#16).toNat ∧
      (⟨0, 511⟩ : Buffer).cap.toNat < 512 ∧ (1#6 : CmdCode) ≠ (start 2 []).cmd := by decide

theorem witness_WaitForStatusReadsUntilMetOrTheBound :
    (start 3 [0xD8, 0x58]).driveIn = [0xD8, 0x58] ++ [] ∧
      WaitRun (start 3 []).cfg 0x08 [0xD8, 0x58] .ok ∧
      WaitRun (start 3 []).cfg 0x08 [0x50, 0x50, 0x50] .timeout ∧
      WaitRun (start 0 []).cfg 0x08 [] .timeout :=
  ⟨rfl, ⟨by decide, [0xD8], 0x58, rfl, by decide, by decide⟩, ⟨by decide, by decide⟩,
    ⟨by decide, by decide⟩⟩

/-- At 0 polls and at more. -/
theorem witness_BusyMaskAlwaysTimesOut :
    (start 0 []).cfg.stBsy ≠ 0 ∧ (start 0 []).cfg.stBsy &&& 0x80 = (start 0 []).cfg.stBsy ∧
      (start 2 []).cfg.stBsy &&& 0xFF = (start 2 []).cfg.stBsy := by decide

theorem witness_InitializeIsIdempotent :
    { start 2 [] with mode := .lba }.mode ≠ .notInitialized ∧
      { start 2 [] with mode := .chs }.mode ≠ .notInitialized := by decide

theorem witness_ProbeWithBusyClearIsDriveAbsent :
    (start 2 [0x50]).mode = .notInitialized ∧ (start 2 [0x50]).driveIn = 0x50 :: [] ∧
      (0x50#8) &&& (start 2 []).cfg.stBsy = 0 := by decide

/-- VI7. -/
theorem witness_ReadyWaitTimesOutAfterItsBound :
    (start 2 (0x80 :: List.replicate 30 0)).driveIn = 0x80 :: List.replicate 30 0 ++ [] ∧
      (0x80#8) &&& (start 2 []).cfg.stBsy ≠ 0 ∧
      NotReadyRun (start 2 []).cfg (List.replicate 30 0) :=
  ⟨by decide, by decide, by decide, by decide⟩

/-- VI1, and VI9's timeout inside a stage, with 2 polls. -/
theorem witness_InitializePreferringLbaFollowsTheListing :
    (start 2 [0x80, 0x80, 0x50, 0x50, 0xE0, 0x50, 0x00]).driveIn =
        [0x80] ++ [0x80, 0x50] ++ [0x50] ++ [0xE0] ++ [0x50] ++ [0x00] ++ [] ∧
      (0x80#8) &&& (start 2 []).cfg.stBsy ≠ 0 ∧ ReadyRun (start 2 []).cfg [0x80, 0x50] ∧
      WaitRun (start 2 []).cfg 0x00 [0x50] .ok ∧
      WaitRun (start 2 []).cfg 0x00 [0x80, 0x80] .timeout :=
  ⟨rfl, by decide, ⟨by decide, [0x80], 0x50, rfl, by decide, by decide⟩,
    ⟨by decide, [], 0x50, rfl, by decide, by decide⟩, ⟨by decide, by decide⟩⟩

/-- VI6. -/
theorem witness_InitializeWithoutLbaSkipsAddressing :
    (start 2 [0x80, 0x50, 0x50, 0x00]).driveIn = [0x80] ++ [0x50] ++ [0x50] ++ [0x00] ++ [] ∧
      (0x80#8) &&& (start 2 []).cfg.stBsy ≠ 0 ∧ ReadyRun (start 2 []).cfg [0x50] ∧
      WaitRun (start 2 []).cfg 0x00 [0x50] .ok :=
  ⟨rfl, by decide, ⟨by decide, [], 0x50, rfl, by decide, by decide⟩,
    ⟨by decide, [], 0x50, rfl, by decide, by decide⟩⟩

theorem witness_ModeAndBusResolvedAreSticky :
    { start 2 [] with mode := .lba, busResolved := true }.mode ≠ .notInitialized ∧
      view (fun t => (t.mode, t.busResolved)) (exec (.initializeDrive false)
        { start 2 [] with mode := .lba, busResolved := true }) = some (.lba, true) := by decide

/-- Each element changes somewhere. -/
theorem witness_StateElementsHaveTheirWriters :
    view (fun t => t.mode) (exec (.produceResponseByte 0)
        (start 2 [0x80, 0x50, 0x50, 0xE0, 0x50, 0x00])) = some .lba ∧
      view (fun t => t.rcur) (exec (.readMultiple 1 ⟨0, 512⟩) (start 0 [])) = some ⟨1, 2⟩ ∧
      view (fun t => t.wcur) (exec (.sendBlock ⟨0, 512⟩ 0) (start 0 [0xE0])) = some ⟨0, 1⟩ ∧
      view (fun t => (t.argPos, t.readInProgress)) (exec (.receiveBlock ⟨0, 512⟩ 0) (start 0 [])) =
        some (0, true) ∧
      view (fun t => t.sectorsWritten) (exec (.produceResponseByte 25)
        { start 0 [] with cmd := 25, sectorsWritten := 2 }) = some 0 ∧
      view (fun t => t.count.ifCond) (exec (.sendIfCond 0 0 1) (start 0 [])) = some 1 ∧
      view (fun t => t.hostMem) (exec (.readSector 0 1 ⟨9, 512⟩) (start 1 [0x58, 7])) =
        some [(9, 7)] := by decide

theorem witness_ReadSectorMovesExactlySizeBytes :
    (start 2 [0x58, 0xAA, 0x55]).hostMem.Wf ∧ (2#16).toNat ≤ 512 ∧
      (2#16).toNat ≤ (⟨0, 2⟩ : Buffer).cap.toNat ∧
      (start 2 [0x58, 0xAA, 0x55]).driveIn = [0x58] ++ [0xAA, 0x55] ++ [] ∧
      WaitRun (start 2 []).cfg (start 2 []).cfg.stDrq [0x58] .ok :=
  ⟨reset_hostMem_wf, by decide, by decide, rfl, ⟨by decide, [], 0x58, rfl, by decide, by decide⟩⟩

theorem witness_ReadSectorTimeoutMovesNothing :
    (512#16).toNat ≤ 512 ∧ (512#16).toNat ≤ (⟨0, 512⟩ : Buffer).cap.toNat ∧
      (start 2 [0x80, 0x50]).driveIn = [0x80, 0x50] ++ [] ∧
      WaitRun (start 2 []).cfg (start 2 []).cfg.stDrq [0x80, 0x50] .timeout :=
  ⟨by decide, by decide, rfl, ⟨by decide, by decide⟩⟩

theorem witness_WriteSectorHandsOverTheBuffer :
    512 ≤ (⟨0, 512⟩ : Buffer).cap.toNat ∧ (start 2 [0xA0, 0x80, 0x58]).driveIn =
        0xA0 :: [0x80, 0x58] ++ [] ∧
      WaitRun (start 2 []).cfg (start 2 []).cfg.stDrq [0x80, 0x58] .ok :=
  ⟨by decide, rfl, ⟨by decide, [0x80], 0x58, rfl, by decide, by decide⟩⟩

theorem witness_WriteSectorTimeoutHandsOverNothing :
    512 ≤ (⟨0, 512⟩ : Buffer).cap.toNat ∧ (start 2 [0xE0, 0x80, 0x80]).driveIn =
        0xE0 :: [0x80, 0x80] ++ [] ∧
      WaitRun (start 2 []).cfg (start 2 []).cfg.stDrq [0x80, 0x80] .timeout :=
  ⟨by decide, rfl, ⟨by decide, by decide⟩⟩

/-- The sizes 0 and 512, and a buffer of exactly one sector. -/
theorem witness_SectorOperationsCompleteInEveryMode :
    (0#16).toNat ≤ 512 ∧ (0#16).toNat ≤ (⟨0, 0⟩ : Buffer).cap.toNat ∧ (512#16).toNat ≤ 512 ∧
      (512#16).toNat ≤ (⟨0, 512⟩ : Buffer).cap.toNat ∧ 512 ≤ (⟨0, 512⟩ : Buffer).cap.toNat := by
  decide

theorem witness_SectorBitsAbove27AreDropped :
    (0xF1234567#32).extractLsb' 0 28 = (0x01234567#32).extractLsb' 0 28 ∧
      (0xF1234567#32) ≠ 0x01234567#32 := by decide

/-- The same start as the anchor, and another. -/
theorem witness_ReadMultipleReadsAtTheCursor :
    512 ≤ (⟨0, 512⟩ : Buffer).cap.toNat ∧
      (100 : Sector) = { start 2 [] with rcur := ⟨100, 101⟩ }.rcur.anchor ∧
      (101 : Sector) ≠ { start 2 [] with rcur := ⟨100, 101⟩ }.rcur.anchor := by decide

theorem witness_WriteMultipleWritesAtTheCursor :
    512 ≤ (⟨0, 512⟩ : Buffer).cap.toNat ∧
      (7 : Sector) = { start 2 [] with wcur := ⟨7, 8⟩ }.wcur.anchor ∧
      (9 : Sector) ≠ { start 2 [] with wcur := ⟨7, 8⟩ }.wcur.anchor := by decide

/-- Two calls that complete, in each direction (VC1, VC8, with no status poll). -/
theorem witness_SameStartContinuesOtherStartRestarts :
    (∃ t u, exec (.readMultiple 100 ⟨0, 512⟩) (start 0 []) = .next t ∧
        exec (.readMultiple 100 ⟨0, 512⟩) t = .next u) ∧
      ∃ t u, exec (.writeMultiple 7 ⟨0, 512⟩) (start 0 []) = .next t ∧
        exec (.writeMultiple 9 ⟨0, 512⟩) t = .next u :=
  have h : BufHolds ⟨0, 512⟩ sectorSize := by decide
  ⟨⟨_, _, withBuffer_holds _ _ h, withBuffer_holds _ _ h⟩,
    ⟨_, _, withBuffer_holds _ _ h, withBuffer_holds _ _ h⟩⟩

theorem witness_StartTokenCountsABlock : (start 2 []).argPos = 0 := by decide

theorem witness_ClearingTokensClearTheirFlag :
    { start 2 [] with cmd := 12 }.argPos = 0 ∧
      { start 2 [] with cmd := 12 }.cmd = { start 2 [] with cmd := 12 }.cfg.sdStopTransmission := by
  decide

/-- The ends of the ignored ranges. -/
theorem witness_OtherTokensAreIgnored :
    (start 2 []).argPos = 0 ∧ (0xF0#8).extractLsb' 4 4 = 0xF#4 ∧ (0xFB#8).extractLsb' 4 4 = 0xF#4 ∧
      (0xFE#8).extractLsb' 4 4 = 0xF#4 ∧ (0xFE#8) ≠ 0xFF#8 ∧
      (start 2 []).cmd ≠ (start 2 []).cfg.sdStopTransmission := by decide

theorem witness_CommandByteOpensAFrame : (start 2 []).argPos = 0 := by decide

/-- Positions 1 and 4. -/
theorem witness_ArgumentByteIsShiftedIn :
    1 ≤ { start 2 [] with argPos := 1 }.argPos ∧ { start 2 [] with argPos := 4 }.argPos ≤ 4 := by
  decide

theorem witness_ChecksumByteClosesTheFrame : { start 2 [] with argPos := 5 }.argPos = 5 := by decide

/-- The ends of the two ranges of stray bytes. -/
theorem witness_StrayByteIsAccumulated :
    (start 2 []).argPos = 0 ∧
      (∀ b ∈ [0x00#8, 0x3F#8, 0x80#8, 0xEF#8],
        b.extractLsb' 4 4 ≠ 0xF#4 ∧ b.extractLsb' 6 2 ≠ 0b01#2) := by decide

theorem witness_SixBytesRebuildTheFrame : (start 2 []).argPos = 0 := by decide

theorem witness_StreamRowsNeverTouchTheBus :
    StreamRow 0xFC .tokenStartBlock ∧ StreamRow 0x12 (.argByte 0x12) :=
  ⟨.tokenStartBlock, .argByte 0x12⟩

theorem witness_FrameRowsDeliverCodeAndArgument :
    FrameRow (start 2 []).cfg 0 .goIdleState ∧ FrameRow (start 2 []).cfg 17 (.unrecognizedCommand 17) ∧
      (start 2 []).argPos = 0 :=
  ⟨.goIdleState, .unrecognizedCommand 17, by decide⟩

theorem witness_FrameRowsAnswerByTheDispatcher :
    FrameRow (start 2 []).cfg 12 .stopTransmission ∧ (0x00#8) ≠ 0xFF#8 ∧ (0xFE#8) ≠ 0xFF#8 :=
  ⟨.stopTransmission, by decide, by decide⟩

theorem witness_GoIdleInitializesThenAnswers :
    (start 2 []).Inv ∧ (start 2 []).cmd = (start 2 []).cfg.sdGoIdle :=
  ⟨start_inv 2 [], by decide⟩

theorem witness_FixedResponsesComeFromTheirEntry :
    { start 2 [] with cmd := 8 }.Inv ∧ { start 2 [] with cmd := 8 }.cmd = 8 ∧
      ((8 : CmdCode), Entry.ifCond) ∈ [((start 2 []).cfg.sdSendIfCond, Entry.ifCond),
        ((start 2 []).cfg.sdReadOcr, Entry.ocr)] :=
  ⟨inv_of_eq (start_inv 2 []) rfl rfl rfl rfl, by decide, by decide⟩

/-- In a session and out of one. -/
theorem witness_ReadResponseDependsOnTheSession :
    { start 2 [] with cmd := 18, readInProgress := true }.Inv ∧
      { start 2 [] with cmd := 18 }.cmd = (start 2 []).cfg.sdReadMultiple :=
  ⟨inv_of_eq (start_inv 2 []) rfl rfl rfl rfl, by decide⟩

/-- The last byte of a closing response, with one sector written. -/
theorem witness_WriteResponseDependsOnTheSession :
    { start 2 [] with
        cmd := 25, sectorsWritten := 1, count := (start 2 []).count.set .wrEnd1 1 }.Inv ∧
      { start 2 [] with cmd := 25 }.cmd = (start 2 []).cfg.sdWriteMultiple := by
  refine ⟨⟨(start_inv 2 []).cfgWf, (start_inv 2 []).argPosBound, ?_, (start_inv 2 []).memWf⟩,
    by decide⟩
  intro e; cases e <;> exact (by decide)

theorem witness_UnrecognizedCommandAnswersNull :
    { start 2 [] with cmd := 17 }.cmd ∉ (start 2 []).cfg.sdCodes := by decide

theorem witness_WholeResponseIsThePayload :
    { start 2 [] with cmd := 8 }.Inv ∧
      { start 2 [] with cmd := 8 }.cfg.resp.get .ifCond = 5 :: [0x21, 0x22, 0x23, 0x24, 0x25] ∧
      { start 2 [] with cmd := 8 }.count.get .ifCond = 0 :=
  ⟨inv_of_eq (start_inv 2 []) rfl rfl rfl rfl, by decide, by decide⟩

theorem witness_SendBlockWritesAtTheArgument : 512 ≤ (⟨0, 512⟩ : Buffer).cap.toNat := by decide

theorem witness_ReceiveBlockReadsAtTheArgument : 512 ≤ (⟨4, 513⟩ : Buffer).cap.toNat := by decide

theorem witness_OneBlockWriteSessionCloses :
    { start 2 [] with cmd := 25 }.Inv ∧ 512 ≤ (⟨0, 512⟩ : Buffer).cap.toNat ∧
      { start 2 [] with cmd := 25 }.argPos = 0 ∧
      { start 2 [] with cmd := 25 }.cmd = (start 2 []).cfg.sdWriteMultiple ∧
      { start 2 [] with cmd := 25 }.sectorsWritten = 0 ∧
      { start 2 [] with cmd := 25 }.count.get .wrEnd1 = 0 :=
  ⟨inv_of_eq (start_inv 2 []) rfl rfl rfl rfl, by decide, by decide, by decide, by decide,
    by decide⟩

theorem witness_ReadSessionEndsAtTheIdleByte :
    (start 2 []).cfg.Wf ∧ { start 2 [] with readInProgress := true }.argPos = 0 ∧
      { start 2 [] with readInProgress := true }.readInProgress = true :=
  ⟨(start_inv 2 []).cfgWf, by decide, by decide⟩

theorem witness_StepRunsTheDecodedInstruction :
    { start 2 [] with hostIn := [⟨.port, [8, 7]⟩] }.hostIn = ⟨.port, [8, 7]⟩ :: [] ∧
      decode (start 2 []).cfg (start 2 []).argPos ⟨.port, [8, 7]⟩ = .ok (.readRegister 7) := by
  decide

/-- No request, and an item that is no instruction. -/
theorem witness_StepWithoutAnInstruction :
    (start 2 []).hostIn = [] ∧
      { start 2 [] with hostIn := [⟨.port, [31]⟩] }.hostIn = ⟨.port, [31]⟩ :: [] ∧
      decode (start 2 []).cfg (start 2 []).argPos ⟨.port, [31]⟩ = .error .noSuchSelector := by decide

theorem witness_DecodeOfEncodeIsTheInstruction :
    (start 2 []).cfg.Wf ∧ Instr.wf (start 2 []).cfg (.unrecognizedCommand 17 1 2 3) = true ∧
      Instr.atPosition 4 (.argByte 0xFF) = true ∧ Instr.atPosition 0 (.strayByte 0xEF) = true :=
  ⟨(start_inv 2 []).cfgWf, by decide, by decide, by decide⟩

theorem witness_EveryStepKeepsTheInvariant :
    (start 2 []).Inv ∧ step (start 2 []) = .next (start 2 []) := ⟨start_inv 2 [], rfl⟩

theorem witness_CompositeOperationsLeaveTheStrobesIdle :
    isPrimitive (.readRegister 7) = false ∧ (start 2 [0]).StrobesIdle ∧
      view (fun t => t.rdState) (exec (.readRegister 7) (start 2 [0])) = some .negate :=
  ⟨by decide, ⟨by decide, by decide⟩, by decide⟩

end Sys2Proof.Tests
end

section
/-! PROOFS. The pins: one rule per pin and state (R26), and the obligation about them. -/

namespace Sys2Proof.Machine

open Sys2Proof

@[simp] theorem strobePin_highZ (c : Config) : strobePin c .highZ = .released := rfl

@[simp] theorem strobePin_assert (c : Config) :
    strobePin c .assert = .driven c.strobeActiveLevel := rfl

@[simp] theorem strobePin_negate (c : Config) :
    strobePin c .negate = .driven c.strobeActiveLevel.opposite := rfl

theorem State.rdPin_of_rdState {s : State} {st : StrobeState} (h : s.rdState = st) :
    s.rdPin = strobePin s.cfg st := by
  rw [State.rdPin, h]

theorem State.wrPin_of_wrState {s : State} {st : StrobeState} (h : s.wrState = st) :
    s.wrPin = strobePin s.cfg st := by
  rw [State.wrPin, h]

theorem State.dataPins_of_input {s : State} (hdir : s.dir = .input) :
    s.dataPins = .released := by
  simp only [State.dataPins, hdir]

theorem State.dataPins_of_output {s : State} (hdir : s.dir = .output)
    (hwritten : s.doutWritten = true) : s.dataPins = .driven s.dout := by
  simp only [State.dataPins, hdir, hwritten, if_true]

theorem State.addrPins_of_written {s : State} (hwritten : s.addrWritten = true) :
    s.addrPins = .driven s.addr :=
  if_pos hwritten

/-- Settles O8: each strobe pin by the three states of its line driver, the buses by their direction and
their latches. -/
theorem pinsFollowTheState : Obligations.PinsFollowTheState := by
  intro s
  refine ⟨?rdHighZ, ?rdAssert, ?rdNegate, ?wrHighZ, ?wrAssert, ?wrNegate,
    State.dataPins_of_output, State.dataPins_of_input, State.addrPins_of_written⟩
  case rdHighZ => intro h; rw [State.rdPin_of_rdState h, strobePin_highZ]
  case rdAssert => intro h; rw [State.rdPin_of_rdState h, strobePin_assert]
  case rdNegate => intro h; rw [State.rdPin_of_rdState h, strobePin_negate]
  case wrHighZ => intro h; rw [State.wrPin_of_wrState h, strobePin_highZ]
  case wrAssert => intro h; rw [State.wrPin_of_wrState h, strobePin_assert]
  case wrNegate => intro h; rw [State.wrPin_of_wrState h, strobePin_negate]

end Sys2Proof.Machine
end

section
/-! PROOFS. The stream rows: each delivers its byte, a list of them delivers its bytes, and the obligation that six
bytes from position 0 rebuild the frame (R93, R94). -/

namespace Sys2Proof.Machine

open Sys2Proof

/-- A stream row is the delivery of its byte (R220, log entry 5). -/
theorem StreamRow.exec_eq {b : Byte} {i : Instr} (h : StreamRow b i) (s : State) :
    exec i s = .next (consume b s) := by
  cases h <;> rfl

theorem execAll_cons_of_next {i : Instr} {s t : State} (h : exec i s = .next t)
    (is : List Instr) : execAll (i :: is) s = execAll is t := by
  simp only [execAll, h]

/-- Stream rows run in order deliver their bytes in order. -/
theorem execAll_streamRows {bs : List Byte} {is : List Instr}
    (h : List.Forall₂ StreamRow bs is) (s : State) :
    execAll is s = .next (consumeAll bs s) := by
  induction h generalizing s with
  | nil => rfl
  | cons hrow _ ih => rw [execAll_cons_of_next (hrow.exec_eq s), ih, consumeAll]

/-- Settles O41: the six rows deliver the command byte, four argument bytes and checksum, which from position 0
rebuild the frame. -/
theorem sixBytesRebuildTheFrame : Obligations.SixBytesRebuildTheFrame := by
  intro cmd b1 b2 b3 b4 k s hpos
  have hrows : List.Forall₂ StreamRow [commandByte cmd, b1, b2, b3, b4, k]
      [.consumeByte (commandByte cmd), .argByte b1, .argByte b2, .argByte b3, .argByte b4,
        .crcByte k] :=
    .cons (.consumeByte _) <| .cons (.argByte b1) <| .cons (.argByte b2) <|
      .cons (.argByte b3) <| .cons (.argByte b4) <| .cons (.crcByte k) .nil
  have hframe := consumeAll_frame (commandByte cmd) b1 b2 b3 b4 k s hpos
    (commandByte_isCommandByte cmd)
  rw [commandCode_commandByte] at hframe
  calc execAll [.consumeByte (commandByte cmd), .argByte b1, .argByte b2, .argByte b3,
        .argByte b4, .crcByte k] s
    _ = .next (consumeAll [commandByte cmd, b1, b2, b3, b4, k] s) := execAll_streamRows hrows s
    _ = .next { s with cmd := cmd, arg := join32 b1 b2 b3 b4 } := by rw [hframe]
    _ = .next { s with cmd := cmd, arg := b1 ++ b2 ++ b3 ++ b4, argPos := 0 } := by
      rw [← hpos, join32]

end Sys2Proof.Machine
end

section
/-! PROOFS. The data bus, its direction and the address latch: what a run of instructions without a certain event
keeps on the pins, and the obligations about the primitives that put it there (R132 to R135). -/

namespace Sys2Proof.Machine

open Sys2Proof

/-- `LatchStep` of a run of instructions, in terms of the events it appends to the trace. -/
theorem execAll_latches {is : List Instr} {s t : State} {evs : List BusEvent}
    (hrun : execAll is s = .next t) (htrace : t.trace = s.trace ++ evs) :
    ((∀ v, BusEvent.load v ∉ evs) → t.dout = s.dout ∧ t.doutWritten = s.doutWritten) ∧
      ((∀ a, BusEvent.address a ∉ evs) → t.addr = s.addr ∧ t.addrWritten = s.addrWritten) ∧
      ∀ d, (∀ d', d' ≠ d → BusEvent.direction d' ∉ evs) → s.dir = d → t.dir = d := by
  obtain ⟨newest, hevents, hlatches⟩ := execAll_latchStep is s t hrun
  have hevs : evs = newest.reverse := by
    rw [State.trace, State.trace, hevents, List.reverse_append] at htrace
    exact (List.append_cancel_left htrace).symm
  simpa only [hevs, List.mem_reverse] using hlatches

/-- Released data pins stay released until the bus is turned to `Output`. -/
theorem holdsUntil_dataPins_released {s : State} (hdir : s.dir = .input) :
    HoldsUntil (fun e => e = .direction .output) (fun u => u.dataPins = .released) s := by
  intro is t evs hrun htrace hnone
  obtain ⟨-, -, hdirection⟩ := execAll_latches hrun htrace
  have hin : t.dir = .input := hdirection .input (fun
    | .input, hne, _ => hne rfl
    | .output, _, hmem => hnone _ hmem rfl) hdir
  exact State.dataPins_of_input hin

/-- A written latch stays on the data pins until it is loaded or the bus is turned to `Input`. -/
theorem holdsUntil_dataPins_driven {s : State} (hdir : s.dir = .output)
    (hwritten : s.doutWritten = true) :
    HoldsUntil (fun e => IsLoad e ∨ e = .direction .input)
      (fun u => u.dataPins = .driven s.dout) s := by
  intro is t evs hrun htrace hnone
  obtain ⟨hlatch, -, hdirection⟩ := execAll_latches hrun htrace
  obtain ⟨hdout, hkept⟩ := hlatch fun v hmem => hnone _ hmem (.inl ⟨v, rfl⟩)
  have hout : t.dir = .output := hdirection .output (fun
    | .input, _, hmem => hnone _ hmem (.inr rfl)
    | .output, hne, _ => hne rfl) hdir
  rw [State.dataPins_of_output hout (hkept.trans hwritten), hdout]

/-- A written address latch stays on the address pins until it is loaded. -/
theorem holdsUntil_addrPins_driven {s : State} (hwritten : s.addrWritten = true) :
    HoldsUntil IsAddress (fun u => u.addrPins = .driven s.addr) s := by
  intro is t evs hrun htrace hnone
  obtain ⟨-, hlatch, -⟩ := execAll_latches hrun htrace
  obtain ⟨haddr, hkept⟩ := hlatch fun a hmem => hnone _ hmem ⟨a, rfl⟩
  rw [State.addrPins_of_written (hkept.trans hwritten), haddr]

theorem exec_setDataBusDirection (d : Direction) (s : State) :
    exec (.setDataBusDirection d) s = .next (turnBus d s) := rfl

theorem exec_setRegisterAddress (a : RegAddr) (s : State) :
    exec (.setRegisterAddress a) s = .next (loadAddress a s) := rfl

theorem exec_writeDataBus_of_output (v : Byte) {s : State} (hdir : s.dir = .output) :
    exec (.writeDataBus v) s = .next (loadData v s) := by
  simp only [exec, execWriteDataBus, hdir]

theorem exec_readDataBus_of_input {s : State} (hdir : s.dir = .input) :
    exec .readDataBus s = .next (returns (.byte (driveAnswer s)) (sampleBus s).1) := by
  simp only [exec, execReadDataBus, hdir, sampleBus]

theorem driveAnswer_of_pending {s : State} {b : Byte} {rest : List Byte}
    (hpending : s.driveIn = b :: rest) : driveAnswer s = b := by
  simp only [driveAnswer, hpending]

/-- Settles O4: the turn keeps the latch, and each direction holds its pins until an event that ends it. -/
theorem setDirectionKeepsTheLatch : Obligations.SetDirectionKeepsTheLatch := by
  intro d s
  refine ⟨turnBus d s, exec_setDataBusDirection d s, rfl, ?input, ?output⟩
  case input => exact fun hd => holdsUntil_dataPins_released ((turnBus_dir s d).trans hd)
  case output =>
    exact fun hd hwritten => holdsUntil_dataPins_driven (s := turnBus d s) hd hwritten

/-- Settles O5: in Output direction the load is performed, and a written latch stays on the data pins. -/
theorem writeDataBusLoadsTheLatch : Obligations.WriteDataBusLoadsTheLatch := by
  intro v s hdir
  exact ⟨loadData v s, exec_writeDataBus_of_output v hdir, rfl,
    holdsUntil_dataPins_driven (s := loadData v s) hdir rfl⟩

/-- Settles O7: the load is performed in every state, and a written latch stays on the address pins. -/
theorem setRegisterAddressLoadsTheLatch : Obligations.SetRegisterAddressLoadsTheLatch := by
  intro a s
  exact ⟨loadAddress a s, exec_setRegisterAddress a s, rfl,
    holdsUntil_addrPins_driven (s := loadAddress a s) rfl⟩

/-- Settles O6: the byte is the drive's answer, and the sample changes no element of the block. -/
theorem readDataBusReturnsTheDrivesByte : Obligations.ReadDataBusReturnsTheDrivesByte := by
  intro s hdir
  exact ⟨driveAnswer s, fun b rest hpending => driveAnswer_of_pending hpending,
    exec_readDataBus_of_input hdir⟩

end Sys2Proof.Machine
end

section
/-! PROOFS. A register read as an instruction, and the obligation that it is six events (R150). -/

namespace Sys2Proof.Machine

open Sys2Proof

/-- The instruction reads the register and returns the byte it read (R150). -/
theorem exec_readRegister (a : RegAddr) (s : State) :
    exec (.readRegister a) s =
      .next (returns (.byte (readReg a s).2) (afterRead a (readReg a s).2 s)) := by
  rw [← readReg_state]
  rfl

/-- The trace of `DriveRead(a) = v`, newest event first. -/
theorem readTrace_reverse (a : RegAddr) (v : Byte) :
    (readTrace a v).reverse =
      [.strobe .rd .negate, .sample v, .strobe .rd .assert, .address a, .direction .input,
        .strobe .rd .negate] := rfl

/-- Settles O11: the byte is the drive's answer to the read, and the state after is the read's, with that byte
returned. -/
theorem readRegisterIsSixEvents : Obligations.ReadRegisterIsSixEvents := by
  intro a s
  refine ⟨(readReg a s).2, ?byte, ?state⟩
  case byte => exact fun b rest hpending => readReg_byte a s b rest hpending
  case state => rw [exec_readRegister, returns, afterRead, readTrace_reverse]

end Sys2Proof.Machine
end

section
/-! PROOFS. `initialize` as an instruction, and the obligation on its stage S0 (R171). -/

namespace Sys2Proof.Machine

open Sys2Proof

/-- The instruction runs `initialize` and returns the mode it found (R170). -/
theorem exec_initializeDrive (p : Bool) (s : State) :
    exec (.initializeDrive p) s =
      .next (returns (.mode (initDrive p s).2) (initDrive p s).1) := rfl

/-- Settles O17: once `MODE` is set, `initialize` keeps the whole state and answers that mode, so the cached
mode returned is all that the instruction adds. -/
theorem initializeIsIdempotent : Obligations.InitializeIsIdempotent := by
  intro p s hmode
  obtain ⟨hstate, hcached⟩ := (initDrive_sticky p s).1 hmode
  rw [exec_initializeDrive, hstate, hcached, returns]

end Sys2Proof.Machine
end

section
/-! PROOFS. The SD frame parser byte by byte: what each token does, and the obligations on the bytes taken between
frames and inside one (R222 to R226, R228). -/

namespace Sys2Proof.Machine

open Sys2Proof

theorem takeToken_stopTran (s : State) : takeToken 0xFD s = stopTran s := by
  rw [takeToken, if_neg (by decide), if_pos (by decide)]

theorem takeToken_idle (s : State) :
    takeToken 0xFF s = if s.cmd = s.cfg.sdStopTransmission then endReadSession s else s := by
  rw [takeToken, if_neg (by decide), if_neg (by decide)]
  exact if_congr (and_iff_right rfl) rfl rfl

theorem takeToken_ignored {b : Byte} (h : IsIgnoredToken b) (s : State) : takeToken b s = s := by
  obtain ⟨-, hstart, hstop, hidle⟩ := h
  rw [takeToken, if_neg hstart, if_neg hstop, if_neg fun h => hidle h.1]

/-- The rows of one byte do the same. -/
theorem StreamRow.exec_congr {b : Byte} {i j : Instr} (hi : StreamRow b i) (hj : StreamRow b j)
    (s : State) : exec i s = exec j s := by
  rw [hi.exec_eq, hj.exec_eq]

/-- A row that delivers a token between frames takes that token (R96, R220). -/
theorem StreamRow.exec_token {b : Byte} {i : Instr} (h : StreamRow b i) {s : State}
    (hpos : s.argPos = 0) (hb : IsToken b) : exec i s = .next (takeToken b s) := by
  rw [h.exec_eq, consume_token b s hpos hb]

/-- Settles O35: `0xFD` is the end-of-transfer token, and `0xFF` the end of the read session under the
stop-transmission command. -/
theorem clearingTokensClearTheirFlag : Obligations.ClearingTokensClearTheirFlag := by
  intro s hpos
  refine ⟨?stop, ?idle, StreamRow.exec_congr (.consumeByte _) .tokenStopTran s,
    StreamRow.exec_congr (.consumeByte _) .tokenIdleFF s⟩
  case stop =>
    rw [StreamRow.tokenStopTran.exec_token hpos (by decide), takeToken_stopTran, stopTran]
  case idle =>
    intro hcmd
    rw [StreamRow.tokenIdleFF.exec_token hpos (by decide), takeToken_idle, if_pos hcmd,
      endReadSession]

/-- Settles O36: a token without an action of its own keeps the state, and so does `0xFF` outside
stop-transmission. -/
theorem otherTokensAreIgnored : Obligations.OtherTokensAreIgnored := by
  intro s hpos
  refine ⟨?ignored, ?idle⟩
  case ignored =>
    intro b htoken hstart hstop hidle
    have hrow {i : Instr} (h : StreamRow b i) : exec i s = .next s := by
      rw [h.exec_token hpos htoken, takeToken_ignored ⟨htoken, hstart, hstop, hidle⟩]
    exact ⟨hrow (.tokenIgnored b), hrow (.consumeByte b)⟩
  case idle =>
    intro hcmd
    have hrow {i : Instr} (h : StreamRow 0xFF i) : exec i s = .next s := by
      rw [h.exec_token hpos (by decide), takeToken_idle, if_neg hcmd]
    exact ⟨hrow .tokenIdleFF, hrow (.consumeByte 0xFF)⟩

/-- Settles O37: `01cccccc` is the command byte of its code, and it opens a frame of that code. -/
theorem commandByteOpensAFrame : Obligations.CommandByteOpensAFrame := by
  intro cmd s hpos
  calc exec (.consumeByte (commandByte cmd)) s
    _ = .next (consume (commandByte cmd) s) := (StreamRow.consumeByte _).exec_eq s
    _ = .next (openFrame (commandByte cmd) s) := by
      rw [consume_commandByte _ s hpos (commandByte_isCommandByte cmd)]
    _ = .next { s with arg := 0, cmd := cmd, argPos := 1 } := by
      rw [openFrame, commandCode_commandByte]

/-- Settles O38: at positions 1 to 4 the byte is taken as an argument byte, whose shift keeps the low three bytes
of the argument above it. -/
theorem argumentByteIsShiftedIn : Obligations.ArgumentByteIsShiftedIn := by
  intro b s hfirst hlast
  refine ⟨?shift, StreamRow.exec_congr (.consumeByte b) (.argByte b) s⟩
  rw [(StreamRow.argByte b).exec_eq, consume_argByte b s hfirst hlast, takeArgByte, shiftIn_eq]

/-- Settles O39: at position 5 the byte is taken as the checksum, which closes the frame. -/
theorem checksumByteClosesTheFrame : Obligations.ChecksumByteClosesTheFrame := by
  intro b s hpos
  refine ⟨?close, StreamRow.exec_congr (.consumeByte b) (.crcByte b) s⟩
  rw [(StreamRow.crcByte b).exec_eq, consume_checksum b s hpos, closeFrame]

end Sys2Proof.Machine
end

section
/-! PROOFS. What holds over all instructions, from the forms of their effects: the strobes are left idle (R46 a, b),
`MODE` and `BUS_RESOLVED` are sticky (R46 c, f), and the invariant is kept (R46 d, e), by a whole step too (R5). -/

namespace Sys2Proof.Machine

open Sys2Proof

theorem StreamOnly.strobesIdle {s t : State} (h : StreamOnly s t) (hidle : s.StrobesIdle) :
    t.StrobesIdle := by
  obtain ⟨hrd, hwr, -⟩ := h.fields
  exact ⟨hrd ▸ hidle.rdIdle, hwr ▸ hidle.wrIdle⟩

theorem State.StrobesIdle.withResults {s : State} (h : s.StrobesIdle) (rs : List Ret) :
    State.StrobesIdle { s with results := rs } := ⟨h.rdIdle, h.wrIdle⟩

theorem State.StrobesIdle.not_busContention {s : State} (h : s.StrobesIdle) : ¬ s.BusContention :=
  fun hcontention => h.rdIdle hcontention.1

/-- A composite operation leaves idle strobes idle (R46 a). -/
theorem exec_strobesIdle {i : Instr} {s t : State} (hcomposite : isPrimitive i = false)
    (hidle : s.StrobesIdle) (hexec : exec i s = .next t) : t.StrobesIdle := by
  cases exec_effect i s t hexec with
  | bus _ _ idle _ => exact idle hcomposite hidle
  | initialized p h =>
    rw [h]
    exact ((responseStep_initDrive p s).idle hidle).withResults _
  | frame _ cmd arg crc n _ h =>
    obtain ⟨u, v, rs, hstream, hresponse, heq, -⟩ := sdCommand_step cmd arg crc n s
    rw [h, heq]
    exact (hresponse.idle (hstream.strobesIdle hidle)).withResults _
  | stream _ b _ h => exact h ▸ (streamOnly_consume b s).strobesIdle hidle
  | answered h =>
    obtain ⟨u, hresponse, heq⟩ := answer_step s
    rw [h, heq]
    exact (hresponse.idle hidle).withResults _
  | sectorRead _ _ _ u h _ e => rw [e]; exact (h.idle hidle).withResults _
  | cursorRead _ r u _ h _ e => rw [e]; exact (h.idle ⟨hidle.rdIdle, hidle.wrIdle⟩).withResults _
  | blockRead _ r u _ h _ e => rw [e]; exact (h.idle ⟨hidle.rdIdle, hidle.wrIdle⟩).withResults _
  | cursorWrite _ r u _ h e => rw [e]; exact (h.idle ⟨hidle.rdIdle, hidle.wrIdle⟩).withResults _

/-- Settles O60: idle strobes stay idle, and an idle read strobe is not asserted against an output bus. -/
theorem compositeOperationsLeaveTheStrobesIdle :
    Obligations.CompositeOperationsLeaveTheStrobesIdle := by
  intro i s t hcomposite hidle hexec
  have hafter := exec_strobesIdle hcomposite hidle hexec
  exact ⟨hafter, hafter.not_busContention⟩

/-- `MODE` and `BUS_RESOLVED` may only go the way that R46 c and f allow. -/
structure Sticky (s t : State) : Prop where
  mode : s.mode ≠ .notInitialized → t.mode = s.mode
  resolved : s.busResolved = true → t.busResolved = true

theorem Sticky.of_eq {s t : State} (hmode : t.mode = s.mode)
    (hresolved : t.busResolved = s.busResolved) : Sticky s t :=
  ⟨fun _ => hmode, hresolved.trans⟩

theorem StreamOnly.sticky {s t : State} (h : StreamOnly s t) : Sticky s t := by
  obtain ⟨-, -, hmode, hresolved, -⟩ := h.fields
  exact .of_eq hmode hresolved

theorem ResponseStep.toSticky {s t : State} (h : ResponseStep s t) : Sticky s t :=
  ⟨h.sticky, h.resolved⟩

theorem BusOnly.sticky {s t : State} (h : BusOnly s t) : Sticky s t := by
  obtain ⟨hmode, hresolved, -⟩ := h.fields
  exact .of_eq hmode hresolved

theorem DataStep.sticky {s t : State} (h : DataStep s t) : Sticky s t := by
  obtain ⟨hmode, hresolved, -⟩ := h.only.fields
  exact .of_eq hmode hresolved

theorem Sticky.trans {s t u : State} (h₁ : Sticky s t) (h₂ : Sticky t u) : Sticky s u where
  mode := fun h => by
    have hmode := h₁.mode h
    rw [h₂.mode (hmode ▸ h), hmode]
  resolved := fun h => h₂.resolved (h₁.resolved h)

theorem Sticky.withResults {s t : State} (h : Sticky s t) (rs : List Ret) :
    Sticky s { t with results := rs } := ⟨h.mode, h.resolved⟩

theorem exec_sticky {i : Instr} {s t : State} (hexec : exec i s = .next t) : Sticky s t := by
  cases exec_effect i s t hexec with
  | bus _ h _ _ => exact h.sticky.withResults t.results
  | initialized p h => rw [h]; exact (responseStep_initDrive p s).toSticky.withResults _
  | frame _ cmd arg crc n _ h =>
    obtain ⟨u, v, rs, hstream, hresponse, heq, -⟩ := sdCommand_step cmd arg crc n s
    rw [h, heq]
    exact (hstream.sticky.trans hresponse.toSticky).withResults _
  | stream _ b _ h => exact h ▸ (streamOnly_consume b s).sticky
  | answered h =>
    obtain ⟨u, hresponse, heq⟩ := answer_step s
    rw [h, heq]
    exact hresponse.toSticky.withResults _
  | sectorRead _ _ _ u h _ e => rw [e]; exact ⟨h.sticky.mode, h.sticky.resolved⟩
  | cursorRead _ r u _ h _ e => rw [e]; exact ⟨h.sticky.mode, h.sticky.resolved⟩
  | blockRead _ r u _ h _ e => rw [e]; exact ⟨h.sticky.mode, h.sticky.resolved⟩
  | cursorWrite _ r u _ h e => rw [e]; exact ⟨h.only.sticky.mode, h.only.sticky.resolved⟩

/-- Settles O23: every effect of an instruction keeps a mode found and a bus resolved. -/
theorem modeAndBusResolvedAreSticky : Obligations.ModeAndBusResolvedAreSticky := by
  intro i s t hexec
  have h := exec_sticky hexec
  exact ⟨h.mode, h.resolved⟩

/-- The invariant looks at four fields only. -/
theorem State.Inv.of_fields {s t : State} (h : s.Inv) (hcfg : t.cfg = s.cfg)
    (hpos : t.argPos = s.argPos) (hcount : t.count = s.count) (hmem : t.hostMem.Wf) : t.Inv where
  cfgWf := hcfg ▸ h.cfgWf
  argPosBound := hpos ▸ h.argPosBound
  countBound := fun e => by rw [hcount, hcfg]; exact h.countBound e
  memWf := hmem

/-- A step over the bus keeps the invariant, if what it stores leaves memory canonical. -/
theorem State.Inv.of_busOnly {s t : State} (h : s.Inv)
    (hbus : BusOnly { s with hostMem := t.hostMem } t) (hmem : t.hostMem.Wf) : t.Inv := by
  obtain ⟨-, -, -, -, hpos, -, -, -, -, -, hcount, hcfg, -⟩ := hbus.fields
  exact h.of_fields hcfg hpos hcount hmem

theorem State.Inv.of_response {s t : State} (h : s.Inv) (hresponse : ResponseStep s t) : t.Inv := by
  obtain ⟨-, -, hpos, -, -, -, -, hcfg, hmem, -⟩ := hresponse.fields
  refine ⟨hcfg ▸ h.cfgWf, hpos ▸ h.argPosBound, fun e => ?_, hmem ▸ h.memWf⟩
  rw [hcfg]
  exact hresponse.counts h.cfgWf h.countBound e

theorem State.Inv.of_stream {s t : State} (h : s.Inv) (hstream : StreamOnly s t)
    (hpos : t.argPos ≤ 5) : t.Inv := by
  obtain ⟨-, -, -, -, -, -, hcount, hcfg, hmem, -⟩ := hstream.fields
  refine ⟨hcfg ▸ h.cfgWf, hpos, fun e => ?_, hmem ▸ h.memWf⟩
  rw [hcfg, hcount]
  exact h.countBound e

theorem State.Inv.withResults {s : State} (h : s.Inv) (rs : List Ret) :
    State.Inv { s with results := rs } := ⟨h.cfgWf, h.argPosBound, h.countBound, h.memWf⟩

theorem exec_inv {i : Instr} {s t : State} (hinv : s.Inv) (hexec : exec i s = .next t) : t.Inv := by
  cases exec_effect i s t hexec with
  | bus _ h _ _ =>
    have hmem : t.hostMem = s.hostMem := h.hostMem
    exact hinv.of_busOnly (t := { t with results := s.results }) (hmem ▸ h) (hmem ▸ hinv.memWf)
      |>.withResults t.results
  | initialized p h => rw [h]; exact (hinv.of_response (responseStep_initDrive p s)).withResults _
  | frame _ cmd arg crc n _ h =>
    obtain ⟨u, v, rs, hstream, hresponse, heq, hpos⟩ := sdCommand_step cmd arg crc n s
    obtain ⟨-, -, hsame, -⟩ := hresponse.fields
    have hdelivered := hinv.of_stream hstream (hsame ▸ hpos hinv.argPosBound)
    rw [h, heq]
    exact (hdelivered.of_response hresponse).withResults _
  | stream _ b _ h =>
    exact h ▸ hinv.of_stream (streamOnly_consume b s) (consume_argPos b s hinv.argPosBound)
  | answered h =>
    obtain ⟨u, hresponse, heq⟩ := answer_step s
    rw [h, heq]
    exact (hinv.of_response hresponse).withResults _
  | sectorRead _ _ _ u h mem e =>
    rw [e]
    exact (hinv.of_busOnly h.only (mem hinv.memWf)).withResults _
  | cursorRead _ r u _ h mem e =>
    have hbase : State.Inv { s with rcur := r } :=
      hinv.of_fields rfl rfl rfl hinv.memWf
    rw [e]
    exact (hbase.of_busOnly h.only (mem hinv.memWf)).withResults _
  | blockRead _ r u _ h mem e =>
    have hbase : State.Inv { s with rcur := r, readInProgress := true } :=
      hinv.of_fields rfl rfl rfl hinv.memWf
    rw [e]
    exact (hbase.of_busOnly h.only (mem hinv.memWf)).withResults _
  | cursorWrite _ r u _ h e =>
    have hbase : State.Inv { s with wcur := r } := hinv.of_fields rfl rfl rfl hinv.memWf
    have hmem : u.hostMem = s.hostMem := h.only.hostMem
    rw [e]
    exact (hbase.of_busOnly h.data.only (hmem ▸ hinv.memWf)).withResults _

theorem step_of_idle {s : State} (hidle : s.hostIn = []) : step s = .next s := by
  simp only [step, fetchItem, hidle]

theorem step_of_decoded {s : State} {it : HostItem} {rest : List HostItem} {i : Instr}
    (hpending : s.hostIn = it :: rest) (hdecode : decode s.cfg s.argPos it = .ok i) :
    step s = exec i { s with hostIn := rest } := by
  simp only [step, fetchItem, hpending, hdecode]

theorem step_of_undecodable {s : State} {it : HostItem} {rest : List HostItem} {why : DecodeError}
    (hpending : s.hostIn = it :: rest) (hdecode : decode s.cfg s.argPos it = .error why) :
    step s = .refused (.undecodable why) := by
  simp only [step, fetchItem, hpending, hdecode]

/-- Settles O55: the item is taken off and decoded, and its instruction is run. -/
theorem stepRunsTheDecodedInstruction : Obligations.StepRunsTheDecodedInstruction := by
  intro s it rest i hpending hdecode
  exact step_of_decoded hpending hdecode

/-- Settles O56: with nothing pending there is nothing to fetch, and an item that does not decode is not run. -/
theorem stepWithoutAnInstruction : Obligations.StepWithoutAnInstruction := by
  intro s
  exact ⟨step_of_idle, fun it rest why hpending hdecode => step_of_undecodable hpending hdecode⟩

/-- A step that completes is idle, or is one instruction on the state without its item. -/
theorem step_cases {s t : State} (hstep : step s = .next t) :
    t = s ∨ ∃ i rest, exec i { s with hostIn := rest } = .next t := by
  cases hin : s.hostIn with
  | nil =>
    rw [step_of_idle hin] at hstep
    exact .inl (Host.Outcome.next.inj hstep).symm
  | cons it rest =>
    cases hdecode : decode s.cfg s.argPos it with
    | ok i => exact .inr ⟨i, rest, step_of_decoded hin hdecode ▸ hstep⟩
    | error why =>
      rw [step_of_undecodable hin hdecode] at hstep
      cases hstep

/-- Settles O59: taking an item off the host port keeps the invariant, and so does every instruction. -/
theorem everyStepKeepsTheInvariant : Obligations.EveryStepKeepsTheInvariant := by
  intro s t hinv hstep
  obtain rfl | ⟨i, rest, hexec⟩ := step_cases hstep
  · exact hinv
  · have hfetched : State.Inv { s with hostIn := rest } :=
      hinv.of_fields rfl rfl rfl hinv.memWf
    exact exec_inv hfetched hexec

end Sys2Proof.Machine
end

section
/-! PROOFS. Which instructions write which state element (R30 to R41), from the forms of their effects. -/

namespace Sys2Proof.Machine

open Sys2Proof

/-- The fields above the bus that a transfer leaves alone: all but host memory. -/
theorem DataStep.fields {s t : State} (h : DataStep s t) :
    t.mode = s.mode ∧ t.busResolved = s.busResolved ∧ t.rcur = s.rcur ∧ t.wcur = s.wcur ∧
      t.argPos = s.argPos ∧ t.cmd = s.cmd ∧ t.arg = s.arg ∧
      t.readInProgress = s.readInProgress ∧ t.writeInProgress = s.writeInProgress ∧
      t.sectorsWritten = s.sectorsWritten ∧ t.count = s.count ∧ t.cfg = s.cfg ∧
      t.hostIn = s.hostIn := by
  obtain ⟨hmode, hresolved, hrcur, hwcur, hpos, hcmd, harg, hread, hwrite, hsectors, hcount, hcfg,
    -, hin, -⟩ := h.only.fields
  exact ⟨hmode, hresolved, hrcur, hwcur, hpos, hcmd, harg, hread, hwrite, hsectors, hcount, hcfg,
    hin⟩

/-- The fields above the bus that `initialize` leaves alone: all but `MODE` and `BUS_RESOLVED`. -/
theorem initDrive_fields (p : Bool) (s : State) :
    (initDrive p s).1.rcur = s.rcur ∧ (initDrive p s).1.wcur = s.wcur ∧
      (initDrive p s).1.argPos = s.argPos ∧ (initDrive p s).1.cmd = s.cmd ∧
      (initDrive p s).1.arg = s.arg ∧ (initDrive p s).1.readInProgress = s.readInProgress ∧
      (initDrive p s).1.writeInProgress = s.writeInProgress ∧
      (initDrive p s).1.sectorsWritten = s.sectorsWritten ∧
      (initDrive p s).1.count = s.count ∧ (initDrive p s).1.cfg = s.cfg ∧
      (initDrive p s).1.hostMem = s.hostMem ∧ (initDrive p s).1.hostIn = s.hostIn ∧
      (initDrive p s).1.results = s.results := by
  obtain ⟨-, -, hkept⟩ := (initDrive_frame p s).only.fields
  exact hkept

/-- Without a response byte asked for, an SD command is the delivery of its frame. -/
theorem sdCommand_zero (cmd : CmdCode) (arg : CmdArg) (crc : Byte) (s : State) :
    sdCommand cmd arg crc 0 s = consumeAll (frameBytes cmd arg crc) s := rfl

/-- The fields that an SD command leaves alone, however many response bytes it asks for. -/
theorem sdCommand_fields (cmd : CmdCode) (arg : CmdArg) (crc n : Byte) (s : State) :
    (sdCommand cmd arg crc n s).rcur = s.rcur ∧ (sdCommand cmd arg crc n s).wcur = s.wcur ∧
      (sdCommand cmd arg crc n s).hostMem = s.hostMem ∧ (sdCommand cmd arg crc n s).cfg = s.cfg ∧
      (sdCommand cmd arg crc n s).hostIn = s.hostIn := by
  obtain ⟨u, v, rs, hstream, hresponse, heq, -⟩ := sdCommand_step cmd arg crc n s
  obtain ⟨-, -, -, -, hrcur, hwcur, -, hcfg, hmem, hin⟩ := hstream.fields
  obtain ⟨hrcur', hwcur', -, -, -, -, -, hcfg', hmem', hin', -⟩ := hresponse.fields
  rw [heq]
  exact ⟨hrcur'.trans hrcur, hwcur'.trans hwcur, hmem'.trans hmem, hcfg'.trans hcfg,
    hin'.trans hin⟩

/-- The fields that a response byte leaves alone. -/
theorem answer_fields (s : State) :
    (answer s).rcur = s.rcur ∧ (answer s).wcur = s.wcur ∧ (answer s).argPos = s.argPos ∧
      (answer s).cmd = s.cmd ∧ (answer s).arg = s.arg ∧
      (answer s).readInProgress = s.readInProgress ∧
      (answer s).writeInProgress = s.writeInProgress ∧ (answer s).cfg = s.cfg ∧
      (answer s).hostMem = s.hostMem ∧ (answer s).hostIn = s.hostIn := by
  obtain ⟨hrcur, hwcur, hpos, hcmd, harg, hread, hwrite, hcfg, hmem, hin, -⟩ :=
    (responseStep_respond s).fields
  exact ⟨hrcur, hwcur, hpos, hcmd, harg, hread, hwrite, hcfg, hmem, hin⟩

/-- A response byte changes `MODE` or `BUS_RESOLVED` under the GO_IDLE code only (R243). -/
theorem cmd_goIdle_of_answer_mode {s : State}
    (h : (answer s).mode ≠ s.mode ∨ (answer s).busResolved ≠ s.busResolved) :
    s.cmd = s.cfg.sdGoIdle := by
  by_contra hcmd
  obtain ⟨hmode, hresolved⟩ := respond_mode s hcmd
  exact h.elim (absurd hmode) (absurd hresolved)

/-- Settles O24: an element that an effect of the instruction leaves alone is no writer's, and the effect names the
instruction for the others. -/
theorem stateElementsHaveTheirWriters : Obligations.StateElementsHaveTheirWriters := by
  intro i s t hexec
  cases exec_effect i s t hexec with
  | bus _ h _ _ =>
    have hkept := h.fields
    simp only at hkept
    simp [hkept]
  | initialized p h => simp [h, initDrive_fields p s]
  | frame _ cmd arg crc n hi h =>
    obtain ⟨f, hrow, hi⟩ := hi
    have hframe : IsFrame s.cfg i := ⟨cmd, f, arg, crc, n, hrow, hi⟩
    subst h
    by_cases hn : n = 0
    · have hdelivered := (streamOnly_consumeAll (frameBytes cmd arg crc) s).fields
      rw [← sdCommand_zero, ← hn] at hdelivered
      simp [hdelivered, hframe]
    · have hasks : AsksForResponses s.cfg i := ⟨cmd, f, arg, crc, n, hrow, hn, hi⟩
      simp [sdCommand_fields cmd arg crc n s, hframe, hasks]
  | stream _ b hi h => simp [h, (streamOnly_consume b s).fields, hi]
  | answered h =>
    have hgoIdle := @cmd_goIdle_of_answer_mode s
    subst h
    refine ⟨fun hmode => .inr (.inl (by rw [hgoIdle hmode])), ?rest⟩
    simp [answer_fields s]
  | sectorRead sec n buf u h _ e =>
    rw [e]
    simp [h.fields]
  | cursorRead _ r u hi h _ e =>
    rw [e]
    simp [h.fields, hi]
  | blockRead _ r u hi h _ e =>
    rw [e]
    simp [h.fields, hi]
  | cursorWrite _ r u hi h e =>
    rw [e]
    simp [h.only.fields, hi]

end Sys2Proof.Machine
end

section
/-! PROOFS. Decode and encode agree, format by format (R90): frames, stream bytes, ATA command bytes, host-port
operations. -/

namespace Sys2Proof.Machine

open Sys2Proof

/-- A FRAME row is the row of its code: the recognized codes are distinct, and the default row has none of them. -/
theorem frameInstr_of_frameRow {c : Config} {cmd : CmdCode} {f : CmdArg → Byte → Byte → Instr}
    (hc : c.Wf) (hrow : FrameRow c cmd f) (arg : CmdArg) (crc n : Byte)
    (hwf : (f arg crc n).wf c = true) : frameInstr c cmd arg crc n = f arg crc n := by
  have hdistinct := codes_distinct hc
  cases hrow with
  | unrecognizedCommand =>
    have hother : cmd ∉ c.sdCodes := of_decide_eq_true hwf
    simp only [Config.sdCodes, List.mem_cons, List.not_mem_nil, or_false, not_or] at hother
    simp only [frameInstr, hother, if_false]
  | _ => simp only [frameInstr, hdistinct, if_true, if_false]

/-- Decoding the item of a FRAME row gives the row back (R91, R98, R99). -/
theorem decode_encode_frameRow {c : Config} {cmd : CmdCode} {f : CmdArg → Byte → Byte → Instr}
    (hc : c.Wf) (hrow : FrameRow c cmd f) (pos : Nat) (arg : CmdArg) (crc n : Byte)
    (hwf : (f arg crc n).wf c = true) :
    decode c pos (encode c (f arg crc n)) = .ok (f arg crc n) := by
  have hitem : encode c (f arg crc n) = frameItem cmd arg crc n := by cases hrow <;> rfl
  rw [hitem, decode_frameItem, frameInstr_of_frameRow hc hrow arg crc n hwf]

/-- At positions 1 to 4 every stream byte is an argument byte (R95). -/
theorem streamInstr_argByte {pos : Nat} (hfirst : 1 ≤ pos) (hlast : pos ≤ 4) (b : Byte) :
    streamInstr pos b = .argByte b := by
  rw [streamInstr, if_neg (by omega), if_pos hlast]

/-- At position 5 every stream byte is the checksum (R95). -/
theorem streamInstr_crcByte {pos : Nat} (hpos : 5 ≤ pos) (b : Byte) :
    streamInstr pos b = .crcByte b := by
  rw [streamInstr, if_neg (by omega), if_neg (by omega)]

/-- Between frames a token without an action of its own is an ignored token (R96, R228). -/
theorem streamInstr_tokenIgnored {b : Byte} (h : IsIgnoredToken b) :
    streamInstr 0 b = .tokenIgnored b := by
  obtain ⟨htoken, hstart, hstop, hidle⟩ := h
  rw [streamInstr, if_pos rfl, if_pos htoken, if_neg hstart, if_neg hstop, if_neg hidle]

/-- Between frames a byte that is neither token nor command byte is a stray byte (R227). -/
theorem streamInstr_strayByte {b : Byte} (h : IsStrayByte b) : streamInstr 0 b = .strayByte b := by
  rw [streamInstr, if_pos rfl, if_neg h.1, if_neg h.2]

/-- The four ATA command bytes are pairwise distinct, in the order in which the decoder tests them. -/
theorem ataCodes_distinct {c : Config} (h : c.Wf) :
    c.ataWrite ≠ c.ataRead ∧ c.ataInitParams ≠ c.ataRead ∧ c.ataInitParams ≠ c.ataWrite ∧
      c.ataSetFeatures ≠ c.ataRead ∧ c.ataSetFeatures ≠ c.ataWrite ∧
      c.ataSetFeatures ≠ c.ataInitParams := by
  obtain ⟨-, -, hnodup, -⟩ := h
  simp only [Config.ataCodes, List.nodup_cons, List.mem_cons, List.not_mem_nil, or_false,
    not_or] at hnodup
  obtain ⟨⟨hrw, hri, hrs⟩, ⟨hwi, hws⟩, his, -⟩ := hnodup
  exact ⟨Ne.symm hrw, Ne.symm hri, Ne.symm hwi, Ne.symm hrs, Ne.symm hws, Ne.symm his⟩

/-- Settles O58: a frame by its code, a stream byte by its class at the position, an ATA command byte by its value,
a host-port operation by its selector and each operand by its own bytes. -/
theorem decodeOfEncodeIsTheInstruction : Obligations.DecodeOfEncodeIsTheInstruction := by
  intro c pos i hc hwf hpos
  have hata := ataCodes_distinct hc
  cases i with
  | goIdleState => exact decode_encode_frameRow hc .goIdleState pos _ _ _ hwf
  | sendIfCond => exact decode_encode_frameRow hc .sendIfCond pos _ _ _ hwf
  | stopTransmission => exact decode_encode_frameRow hc .stopTransmission pos _ _ _ hwf
  | readMultipleBlock => exact decode_encode_frameRow hc .readMultipleBlock pos _ _ _ hwf
  | writeMultipleBlock => exact decode_encode_frameRow hc .writeMultipleBlock pos _ _ _ hwf
  | sdSendOpCond => exact decode_encode_frameRow hc .sdSendOpCond pos _ _ _ hwf
  | appCmd => exact decode_encode_frameRow hc .appCmd pos _ _ _ hwf
  | readOcr => exact decode_encode_frameRow hc .readOcr pos _ _ _ hwf
  | unrecognizedCommand cmd =>
    exact decode_encode_frameRow hc (.unrecognizedCommand cmd) pos _ _ _ hwf
  | tokenStartBlock | tokenStopTran | tokenIdleFF =>
    obtain rfl : pos = 0 := eq_of_beq hpos
    rfl
  | tokenIgnored b =>
    obtain rfl : pos = 0 := eq_of_beq hpos
    exact congrArg Except.ok (streamInstr_tokenIgnored (of_decide_eq_true hwf))
  | argByte b =>
    obtain ⟨hfirst, hlast⟩ : 1 ≤ pos ∧ pos ≤ 4 := of_decide_eq_true hpos
    exact congrArg Except.ok (streamInstr_argByte hfirst hlast b)
  | crcByte b => exact congrArg Except.ok (streamInstr_crcByte (of_decide_eq_true hpos) b)
  | strayByte b =>
    obtain rfl : pos = 0 := eq_of_beq hpos
    exact congrArg Except.ok (streamInstr_strayByte (of_decide_eq_true hwf))
  | ataReadSectors | ataWriteSectors | ataInitDeviceParams | ataSetFeatures =>
    simp only [encode, ataItem, decode, decodeAta, hata, if_true, if_false]
  | setStrobe _ _ | setDataBusDirection _ | writeDataBus _ | readDataBus | setRegisterAddress _
  | readRegister _ | writeRegister _ _ | waitForStatus _ | initializeDrive _ | consumeByte _
  | produceResponseByte _ =>
    simp only [encode, decode_portItem, decodeOperands, lineOfByte_byteOfLine,
      stateOfByte_byteOfState, directionOfByte_byteOfDirection, addrOfByte_setWidth,
      boolOfByte_byteOfBool, codeOfByte_setWidth, withOperand]
  | readSector _ _ _ | writeSector _ _ | readMultiple _ _ | writeMultiple _ _ | sendBlock _ _
  | receiveBlock _ _ =>
    simp only [encode, decode_portItem, decodeOperands, split32, split16, bufferBytes,
      List.cons_append, List.nil_append, join32_extract, join16_extract,
      bufferOfBytes_bufferBytes]

/-- Settles O57: the twelve words are closed terms, and the decoder evaluates on each. -/
theorem wordsOfTheTableDecode : Obligations.WordsOfTheTableDecode := by
  unfold Obligations.WordsOfTheTableDecode
  decide

end Sys2Proof.Machine
end

section
/-! PROOFS. The primitives and the register write as instructions: one event each (R130, R131), six events (R152), the
command bytes (R104), and the calls outside the contract. -/

namespace Sys2Proof.Machine

open Sys2Proof

theorem exec_setStrobe (line : StrobeLine) (st : StrobeState) (s : State) :
    exec (.setStrobe line st) s = .next (driveStrobe line st s) := rfl

/-- Settles O3: each line has its own field, and the event is put out. -/
theorem setStrobeWritesItsLineOnly : Obligations.SetStrobeWritesItsLineOnly := by
  intro st s
  exact ⟨exec_setStrobe .rd st s, exec_setStrobe .wr st s⟩

/-- What a primitive may do (R130): one event, nothing above the Bus Signal Layer, nothing logged; only a sample
takes a pending answer and returns a value. -/
structure OneEvent (i : Instr) (s t : State) : Prop where
  event : ∃ e, t.events = e :: s.events
  inputs : i ≠ .readDataBus → t.driveIn = s.driveIn ∧ t.results = s.results
  only : BusOnly s { t with results := s.results }
  log : t.log = s.log

theorem oneEvent_driveStrobe (line : StrobeLine) (st : StrobeState) (s : State) :
    OneEvent (.setStrobe line st) s (driveStrobe line st s) := by
  cases line <;> exact ⟨⟨_, rfl⟩, fun _ => ⟨rfl, rfl⟩, rfl, rfl⟩

/-- Settles O9: the five primitives one by one, the two with a precondition only where they complete. -/
theorem eachPrimitiveIsOneBusEvent : Obligations.EachPrimitiveIsOneBusEvent := by
  intro i s t hprimitive hexec
  suffices h : OneEvent i s t from ⟨h.event, h.inputs, h.only, h.log⟩
  cases i with
  | setStrobe line st => cases hexec; exact oneEvent_driveStrobe line st s
  | setDataBusDirection d => cases hexec; exact ⟨⟨_, rfl⟩, fun _ => ⟨rfl, rfl⟩, rfl, rfl⟩
  | writeDataBus v =>
    cases hdir : s.dir with
    | output =>
      cases exec_writeDataBus_of_output v hdir ▸ hexec
      exact ⟨⟨_, rfl⟩, fun _ => ⟨rfl, rfl⟩, rfl, rfl⟩
    | input => simp [exec, execWriteDataBus, hdir] at hexec
  | readDataBus =>
    cases hdir : s.dir with
    | input =>
      cases exec_readDataBus_of_input hdir ▸ hexec
      exact ⟨⟨_, rfl⟩, fun hne => absurd rfl hne, rfl, rfl⟩
    | output => simp [exec, execReadDataBus, hdir] at hexec
  | setRegisterAddress a => cases hexec; exact ⟨⟨_, rfl⟩, fun _ => ⟨rfl, rfl⟩, rfl, rfl⟩
  | _ => cases hprimitive

theorem exec_writeRegister (a : RegAddr) (v : Byte) (s : State) :
    exec (.writeRegister a v) s = .next (afterWrite a v s) := by
  rw [← writeReg_state]
  rfl

/-- The trace of `DriveWrite(a, v)`, newest event first. -/
theorem writeTrace_reverse (a : RegAddr) (v : Byte) :
    (writeTrace a v).reverse =
      [.strobe .wr .negate, .strobe .wr .assert, .address a, .load v, .direction .output,
        .strobe .wr .negate] := rfl

/-- Settles O12: the state after is that of the register write, and its trace is the six events. -/
theorem writeRegisterIsSixEvents : Obligations.WriteRegisterIsSixEvents := by
  intro a v s
  rw [exec_writeRegister, afterWrite, writeTrace_reverse]

/-- Settles O13: each row issues its byte, which is the register write of it. -/
theorem ataCommandByteIsOneStatusCommandWrite :
    Obligations.AtaCommandByteIsOneStatusCommandWrite := by
  intro s
  have hwrite (v : Byte) :
      exec (.writeRegister s.cfg.regStatusCmd v) s = .next (issueCommand v s) := rfl
  exact ⟨⟨_, rfl, hwrite _⟩, ⟨_, rfl, hwrite _⟩, ⟨_, rfl, hwrite _⟩, ⟨_, rfl, hwrite _⟩⟩

/-- An operation on a buffer that is too short is refused (U4). -/
theorem withBuffer_short {buf : Buffer} {n : Nat} (op : State → State × Nat) (s : State)
    (h : buf.cap.toNat < n) : withBuffer buf n op s = .refused .bufferTooShort :=
  if_neg (Nat.not_le.mpr h)

/-- Settles O10: each call fails the test of its own precondition. -/
theorem callsOutsideTheContractAreRefused : Obligations.CallsOutsideTheContractAreRefused := by
  intro s
  refine ⟨?writeInput, ?readOutput, ?size, ?sectorBuffer, ?buffer, ?command⟩
  case writeInput => intro v hdir; simp only [exec, execWriteDataBus, hdir]
  case readOutput => intro hdir; simp only [exec, execReadDataBus, hdir]
  case size => intro sec size buf hsize; exact if_pos hsize
  case sectorBuffer =>
    intro sec size buf hsize hbuf
    exact (if_neg (Nat.not_lt.mpr hsize)).trans (withBuffer_short _ s hbuf)
  case buffer =>
    intro sec buf len hbuf
    exact ⟨withBuffer_short _ s hbuf, withBuffer_short _ s hbuf, withBuffer_short _ s hbuf,
      withBuffer_short _ s hbuf,
      withBuffer_short (fun t => multipleIn t.arg buf (beginReadSession t)) s hbuf⟩
  case command => intro cmd hcmd; exact if_neg hcmd

end Sys2Proof.Machine
end

section
/-! PROOFS. `waitForStatus` as an instruction, and the obligations about it (R154 to R156). -/

namespace Sys2Proof.Machine

open Sys2Proof

theorem exec_waitForStatus (mask : Byte) (s : State) :
    exec (.waitForStatus mask) s =
      .next (returns (.wait (waitStatus mask s).2) (waitStatus mask s).1) := rfl

theorem State.trace_eq_of_events {s t : State} {tr : List BusEvent}
    (h : t.events = tr.reverse ++ s.events) : t.trace = s.trace ++ tr := by
  simp [State.trace, h]

/-- Settles O14: on a run of answers the wait ends in the state after its reads, with the run's result. -/
theorem waitForStatusReadsUntilMetOrTheBound :
    Obligations.WaitForStatusReadsUntilMetOrTheBound := by
  intro mask answers rest r s hpending hrun
  obtain ⟨hevents, hin, hlog, hwr, hdout, hwritten⟩ := afterWait_fields answers r s
  have hframe := busOnly_afterWait answers r s
  refine ⟨returns (.wait r) (afterWait answers r s), ?_, ?_, State.trace_eq_of_events hevents, ?_,
    hlog, hwr, hdout, hwritten, busOnly_returns hframe _⟩
  · rw [exec_waitForStatus, waitStatus_run mask answers rest r s hpending hrun]
  · rw [returns_results, hframe.results]
  · rw [returns_driveIn, hin, hpending, List.drop_left]

/-- A poll for a condition that no status meets reads to its bound (R155 b, e). -/
theorem pollStatus_never {c : Config} {mask : Byte} (hnever : ∀ st, ¬ StatusMet c mask st) (n : Nat)
    (s : State) (hcfg : s.cfg = c) :
    (pollStatus mask n s).2 = .timeout ∧
      (pollStatus mask n s).1.events.length = s.events.length + 6 * n ∧
      (pollStatus mask n s).1.log = s.log := by
  induction n generalizing s with
  | zero => exact ⟨rfl, rfl, rfl⟩
  | succ n ih =>
    have hstep : pollStatus mask (n + 1) s =
        pollStatus mask n (readReg s.cfg.regStatusCmd s).1 := if_neg (hcfg ▸ hnever _)
    obtain ⟨hresult, hlength, hlog⟩ := ih (readReg s.cfg.regStatusCmd s).1 hcfg
    rw [hstep]
    refine ⟨hresult, ?_, hlog⟩
    rw [hlength, readReg_events_length]
    omega

/-- A mask that contains Busy cannot be set while Busy is clear. -/
theorem not_statusMet_of_busy {c : Config} {mask : Byte} (hbusy : c.stBsy ≠ 0)
    (hmask : c.stBsy &&& mask = c.stBsy) (st : Byte) : ¬ StatusMet c mask st := by
  rintro ⟨hclear, hset⟩
  apply hbusy
  calc c.stBsy
    _ = c.stBsy &&& (st &&& mask) := by rw [hset, hmask]
    _ = (st &&& c.stBsy) &&& mask := by rw [← BitVec.and_assoc, BitVec.and_comm c.stBsy st]
    _ = 0 := by rw [hclear]; exact BitVec.zero_and

/-- Settles O15: no status meets the condition, so the poll reads to its bound, and its timeout is logged. -/
theorem busyMaskAlwaysTimesOut : Obligations.BusyMaskAlwaysTimesOut := by
  intro mask s hbusy hmask
  obtain ⟨hresult, hlength, hlog⟩ :=
    pollStatus_never (not_statusMet_of_busy hbusy hmask) s.cfg.statusTimeoutPolls s rfl
  have hresults := (busOnly_pollStatus mask s.cfg.statusTimeoutPolls s).results
  refine ⟨_, exec_waitForStatus mask s, ?_⟩
  simp only [waitStatus, hresult, returns_results, returns_events, returns_log,
    reportError_results, reportError_events, reportError_log, hresults, hlength, hlog, and_self]

/-- Settles O16: the wait goes over the bus only, within its bound. -/
theorem waitForStatusAlwaysReturns : Obligations.WaitForStatusAlwaysReturns := by
  intro mask s
  have hframe := busOnly_waitStatus mask s
  refine ⟨_, (waitStatus mask s).2, exec_waitForStatus mask s, ?_, ?_, busOnly_returns hframe _⟩
  · rw [returns_results, hframe.results]
  · exact waitStatus_events_length mask s

end Sys2Proof.Machine
end

section
/-! PROOFS. The handshake of `initialize` on given drive answers: the listing of R181 (R172 to R180), and its bound from
every state (R337). -/

namespace Sys2Proof.Machine

open Sys2Proof

/-- The state after bus set-up and a probe that reads `st` (R172, R173). -/
def afterProbe (st : Byte) (s : State) : State := afterRead s.cfg.regStatusCmd st (busSetup s)

theorem ran_afterProbe {st : Byte} {rest : List Byte} {s : State}
    (hpending : s.driveIn = st :: rest) :
    Ran (busSetup s) (afterProbe st s) (readTrace s.cfg.regStatusCmd st) [] rest := by
  obtain ⟨t, hread, hran⟩ := ran_readReg s.cfg.regStatusCmd st rest (busSetup s) hpending
  have hstate : (afterProbe st s, st) = (t, st) :=
    (readReg_pending _ (busSetup s) st rest hpending).symm.trans hread
  rwa [(Prod.mk.inj hstate).1]

/-- What a run from the bus set-up adds to the state before it: the two strobe events, `BUS_RESOLVED`, and both
strobes negated (R172). -/
theorem Ran.from_busSetup {s t : State} {tr : List BusEvent} {lg : List LogEvent} {rest : List Byte}
    (h : Ran (busSetup s) t tr lg rest) :
    t.trace = s.trace ++ [.strobe .rd .negate, .strobe .wr .negate] ++ tr ∧
      t.log = lg ++ s.log ∧ t.rdState = .negate ∧ t.wrState = .negate ∧
      BusOnly { s with busResolved := true } t := by
  refine ⟨?_, h.log, h.rdNegated rfl, h.wrNegated rfl, (busStep_busSetup s).only.trans h.only⟩
  rw [h.trace]
  simp [State.trace, busSetup]

/-- A probe with Busy clear ends the handshake (R173). -/
theorem initDrive_absent {st : Byte} {rest : List Byte} {s : State} (p : Bool)
    (hmode : s.mode = .notInitialized) (hpending : s.driveIn = st :: rest)
    (hclear : BusyClear s.cfg st) :
    initDrive p s = (reportError .error .driveAbsent (afterProbe st s), .notInitialized) := by
  have hprobe : readReg (busSetup s).cfg.regStatusCmd (busSetup s) = (afterProbe st s, st) :=
    readReg_pending _ (busSetup s) st rest hpending
  simp only [initDrive, hmode, handshake, hprobe]
  exact if_pos hclear

/-- A probe with Busy set goes on to the ready-wait, which may give up (R174, R175). -/
theorem initDrive_notReady {probe : Byte} {answers rest : List Byte} {s : State} (p : Bool)
    (hmode : s.mode = .notInitialized) (hpending : s.driveIn = probe :: (answers ++ rest))
    (hbusy : ¬ BusyClear s.cfg probe) (hrun : NotReadyRun s.cfg answers) :
    initDrive p s = (reportError .error .initTimeout
      (afterReads s.cfg.regStatusCmd answers (afterProbe probe s)), .notInitialized) := by
  have hprobe : readReg (busSetup s).cfg.regStatusCmd (busSetup s) = (afterProbe probe s, probe) :=
    readReg_pending _ (busSetup s) probe (answers ++ rest) hpending
  have hwait := readyWait_notReady answers rest (afterProbe probe s)
    (ran_afterProbe hpending).driveIn hrun
  simp only [initDrive, hmode, handshake, hprobe, hwait]
  exact if_neg hbusy

/-- Settles O18: the handshake ends at its probe, and an error report makes no bus event. -/
theorem probeWithBusyClearIsDriveAbsent : Obligations.ProbeWithBusyClearIsDriveAbsent := by
  intro p st rest s hmode hpending hclear
  have hran := (ran_afterProbe hpending).trans (ran_reportError .error .driveAbsent _)
  obtain ⟨htrace, hlog, hrd, hwr, hframe⟩ := hran.from_busSetup
  refine ⟨_, exec_initializeDrive p s, ?_⟩
  rw [initDrive_absent p hmode hpending hclear]
  refine ⟨?_, hran.driveIn.trans (ran_afterProbe hpending).driveIn, ?_, hlog, rfl, hrd, hwr,
    busOnly_returns hframe _⟩
  · rw [returns_results, hframe.results]
  · rw [← List.append_nil (readTrace _ _)]
    exact htrace

/-- Settles O19: the ready-wait reads each of its answers and gives up. -/
theorem readyWaitTimesOutAfterItsBound : Obligations.ReadyWaitTimesOutAfterItsBound := by
  intro p probe answers rest s hmode hpending hbusy hrun
  have hprobe := ran_afterProbe hpending
  have hreads := hprobe.trans
    (ran_afterReads s.cfg.regStatusCmd answers rest (afterProbe probe s) hprobe.driveIn)
  have hran := hreads.trans (ran_reportError .error .initTimeout _)
  obtain ⟨htrace, hlog, hrd, hwr, hframe⟩ := hran.from_busSetup
  refine ⟨_, exec_initializeDrive p s, ?_⟩
  rw [initDrive_notReady p hmode hpending hbusy hrun]
  refine ⟨?_, hran.driveIn.trans hreads.driveIn, ?_, hlog, hrd, hwr, busOnly_returns hframe _⟩
  · rw [returns_results, hframe.results]
  · rw [List.append_nil] at htrace
    exact htrace

theorem BusOnly.withMode {s t : State} (h : BusOnly s t) (m : Mode) :
    BusOnly { s with mode := m } { t with mode := m } := by
  unfold BusOnly at h ⊢
  conv_lhs => rw [h]

theorem Ran.withMode {s t : State} {tr : List BusEvent} {lg : List LogEvent} {rest : List Byte}
    (h : Ran s t tr lg rest) (m : Mode) :
    Ran { s with mode := m } { t with mode := m } tr lg rest :=
  ⟨h.events, h.driveIn, h.log, h.only.withMode m, h.rdNegated, h.wrNegated⟩

/-- The mode at the end of the handshake, from the byte of the error register and the candidate (R179, R180). -/
def finalMode (c : Config) (e : Byte) (candidate : Mode) : Mode :=
  if e &&& c.erAbrt ≠ 0 then .notInitialized else candidate

/-- The log of stage S4 (R179). -/
def abortLog (c : Config) (e : Byte) : List LogEvent :=
  if e &&& c.erAbrt ≠ 0 then [⟨.error, .transferModeUnsupported⟩] else []

/-- The trace of stage S4 (R179). -/
def eightBitTrace (c : Config) (w : List Byte) (e : Byte) : List BusEvent :=
  writeTrace c.regErrFeat c.feat8Bit ++ writeTrace c.regStatusCmd c.ataSetFeatures ++
    readsTrace c.regStatusCmd w ++ readTrace c.regErrFeat e

/-- Stages S3 to S5 on given answers: a run of stage S3 that ends with a candidate, then stage S4, and `MODE` written
unless the drive aborts (R179, R180). -/
theorem configureDrive_run {c : Config} {p : Bool} {s u : State} {candidate : Mode}
    {tr : List BusEvent} {lg : List LogEvent} {w rest : List Byte} {e : Byte} {r : WaitResult}
    (hcfg : s.cfg = c) (hmode : s.mode = .notInitialized)
    (haddressing : selectAddressing p s = (u, candidate)) (hran : Ran s u tr lg (w ++ e :: rest))
    (hwait : WaitRun c 0x00 w r) :
    ∃ t, configureDrive p s = (t, finalMode c e candidate) ∧
      Ran { s with mode := finalMode c e candidate } t (tr ++ eightBitTrace c w e)
        (abortLog c e ++ (waitLog r ++ lg)) rest := by
  have hcfgu : u.cfg = c := hran.cfg.trans hcfg
  obtain ⟨v, height, hran'⟩ := selectEightBit_run e w rest r u hran.driveIn (hcfgu ▸ hwait)
  rw [hcfgu] at hran'
  have hall : Ran s v (tr ++ eightBitTrace c w e) (waitLog r ++ lg) rest := hran.trans hran'
  have hcfgv : v.cfg = c := hall.cfg.trans hcfg
  simp only [configureDrive, haddressing, height]
  by_cases habort : Aborted c e
  · have hreport := hall.trans (ran_reportError .error .transferModeUnsupported v)
    rw [hall.driveIn, List.append_nil] at hreport
    refine ⟨reportError .error .transferModeUnsupported v, ?_, ?_⟩
    · rw [if_pos (show Aborted v.cfg e from hcfgv ▸ habort), finalMode, if_pos habort]
    · rw [finalMode, if_pos habort, abortLog, if_pos habort, State.with_mode_self s _ hmode]
      exact hreport
  · refine ⟨{ v with mode := candidate }, ?_, ?_⟩
    · rw [if_neg (show ¬ Aborted v.cfg e from hcfgv ▸ habort), finalMode, if_neg habort]
    · rw [finalMode, if_neg habort, abortLog, if_neg habort]
      exact hall.withMode candidate

/-- `initialize` on given answers that get past the ready-wait, from a run of stage S3 out of the state that the
ready-wait leaves (R172 to R181). -/
theorem exec_initializeDrive_run {p : Bool} {s : State} {probe e : Byte}
    {ready answers w rest : List Byte} {candidate : Mode} {tr : List BusEvent} {lg : List LogEvent}
    {r : WaitResult} (hmode : s.mode = .notInitialized)
    (hpending : s.driveIn = probe :: ready ++ answers) (hbusy : probe &&& s.cfg.stBsy ≠ 0)
    (hready : ReadyRun s.cfg ready) (hwait : WaitRun s.cfg 0x00 w r)
    (hstage : ∀ t, t.driveIn = answers → t.cfg = s.cfg → ∃ u,
      selectAddressing p t = (u, candidate) ∧ Ran t u tr lg (w ++ e :: rest)) :
    ∃ t, exec (.initializeDrive p) s = .next t ∧
      t.results = .mode (finalMode s.cfg e candidate) :: s.results ∧ t.driveIn = rest ∧
      t.trace = s.trace ++ ([.strobe .rd .negate, .strobe .wr .negate] ++
        readsTrace s.cfg.regStatusCmd (probe :: ready) ++ (tr ++ eightBitTrace s.cfg w e)) ∧
      t.log = abortLog s.cfg e ++ (waitLog r ++ lg) ++ s.log ∧
      t.rdState = .negate ∧ t.wrState = .negate ∧
      BusOnly { s with busResolved := true, mode := finalMode s.cfg e candidate }
        { t with results := s.results } := by
  obtain ⟨t, hinit, hevents, hin, hlog, hrd, hwr, hframe⟩ :=
    initDrive_ready probe ready answers s p hmode hpending hbusy hready
  have hcfg : t.cfg = s.cfg := hframe.cfg
  obtain ⟨u, haddressing, hran⟩ := hstage t hin hcfg
  obtain ⟨v, hconfigure, hran'⟩ :=
    configureDrive_run hcfg (hframe.mode.trans hmode) haddressing hran hwait
  have hframe' := (hframe.withMode (finalMode s.cfg e candidate)).trans hran'.only
  refine ⟨_, exec_initializeDrive p s, ?_⟩
  rw [hinit, hconfigure]
  refine ⟨?_, hran'.driveIn, ?_, ?_, hran'.rdNegated hrd, hran'.wrNegated hwr,
    busOnly_returns hframe' _⟩
  · rw [returns_results, hframe'.results]
  · apply State.trace_eq_of_events
    simp only [returns_events, hran'.events, hevents, List.reverse_append, List.append_assoc]
  · rw [returns_log, hran'.log, ← hlog]

/-- Settles O20: stage S3 with `preferLba` runs on its answers, and its candidate is by LBA capability. -/
theorem initializePreferringLbaFollowsTheListing :
    Obligations.InitializePreferringLbaFollowsTheListing := by
  intro probe d e ready wait1 wait2 rest r1 r2 s hmode hpending hbusy hready hwait1 hwait2
  obtain ⟨t, hexec, hresults, hin, htrace, hlog, hrd, hwr, hframe⟩ :=
    exec_initializeDrive_run (p := true) (answers := wait1 ++ d :: (wait2 ++ e :: rest)) hmode
      (by simpa using hpending) hbusy hready hwait2 (fun t hin hcfg =>
        hcfg ▸ selectAddressing_run d wait1 (wait2 ++ e :: rest) r1 t hin (hcfg ▸ hwait1))
  refine ⟨t, _, hexec, rfl, hresults, hin, ?_, ?_, hrd, hwr, hframe⟩
  · simpa only [eightBitTrace, List.append_assoc] using htrace
  · simpa only [abortLog, List.append_assoc] using hlog

/-- Settles O21: stage S3 without `preferLba` makes no access, and its candidate is `CHS`. -/
theorem initializeWithoutLbaSkipsAddressing : Obligations.InitializeWithoutLbaSkipsAddressing := by
  intro probe e ready wait2 rest r2 s hmode hpending hbusy hready hwait2
  obtain ⟨t, hexec, hresults, hin, htrace, hlog, hrd, hwr, hframe⟩ :=
    exec_initializeDrive_run (p := false) (answers := wait2 ++ e :: rest) hmode
      (by simpa using hpending) hbusy hready hwait2
      (fun t hin _ => ⟨t, rfl, hin ▸ Ran.refl t⟩)
  refine ⟨t, _, hexec, rfl, hresults, hin, ?_, ?_, hrd, hwr, hframe⟩
  · simpa only [eightBitTrace, List.nil_append, List.append_assoc] using htrace
  · simpa only [abortLog, List.append_nil, List.append_assoc] using hlog

theorem issueCommand_events_length (v : Byte) (s : State) :
    (issueCommand v s).events.length = s.events.length + 6 := writeReg_events_length _ v s

/-- Stage S4 makes at most `3 + N` accesses: two writes, the status wait and a read. -/
theorem selectEightBit_events_length (s : State) :
    (selectEightBit s).1.events.length ≤
      s.events.length + 6 * (3 + s.cfg.statusTimeoutPolls) := by
  have hwait := waitStatus_events_length 0x00
    (issueCommand s.cfg.ataSetFeatures (writeReg s.cfg.regErrFeat s.cfg.feat8Bit s))
  simp only [issueCommand_events_length, writeReg_events_length, issueCommand_cfg,
    writeReg_cfg] at hwait
  simp only [selectEightBit, readReg_events_length]
  omega

/-- Stage S3 makes at most `3 + N` accesses, likewise. -/
theorem selectAddressing_events_length (p : Bool) (s : State) :
    (selectAddressing p s).1.events.length ≤
      s.events.length + 6 * (3 + s.cfg.statusTimeoutPolls) := by
  cases p with
  | false => exact Nat.le_add_right _ _
  | true =>
    have hwait := waitStatus_events_length 0x00
      (issueCommand s.cfg.ataInitParams (writeReg s.cfg.regDriveHead lbaDrive0 s))
    simp only [issueCommand_events_length, writeReg_events_length, issueCommand_cfg,
      writeReg_cfg] at hwait
    simp only [selectAddressing, if_true]
    split
    · rw [readReg_events_length]; omega
    · rw [reportError_events, readReg_events_length]; omega

/-- Stages S3 to S5 make at most `6 + 2N` accesses. -/
theorem configureDrive_events_length (p : Bool) (s : State) :
    (configureDrive p s).1.events.length ≤
      s.events.length + 6 * (6 + 2 * s.cfg.statusTimeoutPolls) := by
  have haddressing := selectAddressing_events_length p s
  have height := selectEightBit_events_length (selectAddressing p s).1
  rw [(busStep_selectAddressing p s).only.cfg] at height
  simp only [configureDrive]
  split
  · rw [reportError_events]; omega
  · simp only; omega

/-- The handshake makes at most `7 + INIT_READY_POLLS + 2N` accesses and two strobe events (R337). -/
theorem handshake_accessBound (p : Bool) (s : State) :
    AccessBound (7 + s.cfg.initReadyPolls + 2 * s.cfg.statusTimeoutPolls) 2 s
      (handshake p s).1 := by
  have hsetup : (busSetup s).events.length = s.events.length + 2 := rfl
  have hprobe := readReg_events_length (busSetup s).cfg.regStatusCmd (busSetup s)
  have hready := readyWait_events_length s.cfg.initReadyPolls
    (readReg (busSetup s).cfg.regStatusCmd (busSetup s)).1
  have hconfigure := configureDrive_events_length p
    (readyWait s.cfg.initReadyPolls (readReg (busSetup s).cfg.regStatusCmd (busSetup s)).1).1
  rw [(busOnly_readyWait _ _).cfg] at hconfigure
  have hcfg : (readReg (busSetup s).cfg.regStatusCmd (busSetup s)).1.cfg = s.cfg := rfl
  unfold AccessBound
  rw [hcfg] at hconfigure
  simp only [handshake, hcfg]
  split
  · rw [reportError_events]; omega
  · split
    · omega
    · rw [reportError_events]; omega

/-- Settles O22: the cached mode is returned without an access, and the handshake keeps its bound; the result is the
mode after. -/
theorem initializeReturnsTheModeWithinItsBound :
    Obligations.InitializeReturnsTheModeWithinItsBound := by
  intro p s
  have hmode : (initDrive p s).1.mode = (initDrive p s).2 := (initDrive_frame p s).mode
  have hframe : BusOnly { s with
      mode := (initDrive p s).1.mode, busResolved := (initDrive p s).1.busResolved }
      (initDrive p s).1 := by
    rw [hmode]
    exact (initDrive_frame p s).only
  have hbound : AccessBound (7 + s.cfg.initReadyPolls + 2 * s.cfg.statusTimeoutPolls) 2 s
      (initDrive p s).1 := by
    by_cases hnew : s.mode = .notInitialized
    · have hshake : initDrive p s = handshake p s := by simp only [initDrive, hnew]
      exact hshake ▸ handshake_accessBound p s
    · rw [((initDrive_sticky p s).1 hnew).1, AccessBound]
      omega
  refine ⟨_, exec_initializeDrive p s, ?_, hbound, busOnly_returns hframe _⟩
  rw [returns_results, returns_mode, hmode, hframe.results]

end Sys2Proof.Machine
end

section
/-! PROOFS. The sector operations as instructions (R190 to R196): on given drive answers, within their bounds from every
state, and on sector numbers that differ above bit 27. -/

namespace Sys2Proof.Machine

open Sys2Proof

theorem exec_readSector {size : BitVec 16} {buf : Buffer} (sec : Sector) (s : State)
    (hsize : size.toNat ≤ 512) (hbuf : size.toNat ≤ buf.cap.toNat) :
    exec (.readSector sec size buf) s = .next (returns (.number (sectorIn sec size.toNat buf s).2)
      (sectorIn sec size.toNat buf s).1) := execReadSector_next sec size buf s hsize hbuf

theorem exec_writeSector {buf : Buffer} (sec : Sector) (s : State) (hbuf : 512 ≤ buf.cap.toNat) :
    exec (.writeSector sec buf) s =
      .next (returns (.number (sectorOut sec buf s).2) (sectorOut sec buf s).1) :=
  execWriteSector_next sec buf s hbuf

@[simp] theorem returns_trace (r : Ret) (s : State) : (returns r s).trace = s.trace := rfl

/-- A transfer that times out logs the wait's warning and then its own error. -/
theorem Ran.withStatusTimeout {s t : State} {tr : List BusEvent} {rest : List Byte}
    (h : Ran s t tr (waitLog .timeout) rest) :
    Ran s (reportError .error .statusTimeout t) tr
      [⟨.error, .statusTimeout⟩, ⟨.warning, .statusTimeout⟩] rest := by
  have hreport := h.trans (ran_reportError .error .statusTimeout t)
  rw [h.driveIn, List.append_nil] at hreport
  exact hreport

/-- Settles O26: the wait times out, so nothing is read into the buffer. -/
theorem readSectorTimeoutMovesNothing : Obligations.ReadSectorTimeoutMovesNothing := by
  intro sec size buf ws rest s hsize hbuf hpending hrun
  obtain ⟨t, hsector, hran⟩ := sectorIn_wait sec size.toNat buf ws rest .timeout s hpending hrun
  have hfail := hran.withStatusTimeout
  refine ⟨_, exec_readSector sec s hsize hbuf, ?_⟩
  rw [hsector]
  refine ⟨?_, hfail.driveIn, ?_, hfail.log, busOnly_returns hfail.only _⟩
  · rw [returns_results, hfail.only.results]
  · simpa only [returns_trace, List.append_assoc] using hfail.trace

/-- Settles O28: the wait times out, so no byte of the buffer is written. -/
theorem writeSectorTimeoutHandsOverNothing : Obligations.WriteSectorTimeoutHandsOverNothing := by
  intro sec buf h ws rest s hbuf hpending hrun
  obtain ⟨t, hsector, hran⟩ := sectorOut_wait sec buf h ws rest .timeout s hpending hrun
  have hfail := hran.withStatusTimeout
  refine ⟨_, exec_writeSector sec s hbuf, ?_⟩
  rw [hsector]
  refine ⟨?_, hfail.driveIn, ?_, hfail.log, busOnly_returns hfail.only _⟩
  · rw [returns_results, hfail.only.results]
  · simpa only [returns_trace, List.append_assoc] using hfail.trace

/-- The bytes of a buffer lie at successive addresses from its first (R67). -/
theorem bufferContents_eq (m : Memory) (buf : Buffer) (n : Nat) :
    bufferContents m buf n = (List.range n).map (fun i => m.read (bufAddr buf 0 + i)) := rfl

/-- `writeSector` on given answers that meet Data-Request (R195). -/
theorem sectorOut_ok {buf : Buffer} {h : Byte} {ws rest : List Byte} {s : State} (sec : Sector)
    (hpending : s.driveIn = h :: ws ++ rest) (hrun : WaitRun s.cfg s.cfg.stDrq ws .ok) :
    ∃ u, sectorOut sec buf s = (u, 1) ∧
      Ran s u (loadAddrWriteTrace s.cfg sec h ++ writeTrace s.cfg.regStatusCmd s.cfg.ataWrite ++
        readsTrace s.cfg.regStatusCmd ws ++
        writesTrace s.cfg.regData (bufferContents s.hostMem buf 512)) [] rest := by
  obtain ⟨t, hsector, hran⟩ := sectorOut_wait sec buf h ws rest .ok s hpending hrun
  have hdata := hran.trans (ran_writeData (bufAddr buf 0) sectorSize t)
  rw [hran.cfg, hran.only.hostMem, hran.driveIn, ← bufferContents_eq] at hdata
  exact ⟨_, hsector, hdata⟩

/-- Settles O27: the wait ends in Ok, and the bytes of the buffer go out in order. -/
theorem writeSectorHandsOverTheBuffer : Obligations.WriteSectorHandsOverTheBuffer := by
  intro sec buf h ws rest s hbuf hpending hrun
  obtain ⟨t, hsector, hran⟩ := sectorOut_ok (buf := buf) sec hpending hrun
  refine ⟨_, exec_writeSector sec s hbuf, ?_⟩
  rw [hsector]
  refine ⟨?_, hran.driveIn, ?_, hran.log, busOnly_returns hran.only _⟩
  · rw [returns_results, hran.only.results]
  · simpa only [returns_trace, List.append_assoc] using hran.trace

/-- Settles O25: the wait ends in Ok, and the answers after it are stored in order. -/
theorem readSectorMovesExactlySizeBytes : Obligations.ReadSectorMovesExactlySizeBytes := by
  intro sec size buf ws data rest s hmem hsize hbuf hpending hrun hlength
  obtain ⟨t, hsector, hran⟩ := sectorIn_wait sec size.toNat buf ws (data ++ rest) .ok s
    (by rw [hpending, List.append_assoc]) hrun
  obtain ⟨u, hu, hevents, hin, hlog, hbytes⟩ :=
    readData_run data rest (bufAddr buf 0) t hran.driveIn (hran.only.hostMem ▸ hmem)
  have hframe := (dataStep_sectorIn sec size.toNat buf s).only
  have hother := (sectorIn_mem sec size.toNat buf s).1
  rw [hlength] at hu
  simp only [hsector, ← hu] at hframe hother
  refine ⟨_, exec_readSector sec s hsize hbuf, ?_⟩
  simp only [hsector, ← hu]
  refine ⟨?_, hin, ?_, hlog.trans hran.log, hbytes, hother, busOnly_returns hframe _⟩
  · rw [returns_results, hframe.results]
  · rw [returns_trace, State.trace_eq_of_events hevents, hran.trace, hran.cfg]
    simp only [List.append_assoc]

/-- Settles O29: within the contract the guards are passed, and the transfer keeps its bound and its frame whatever the
drive answers. -/
theorem sectorOperationsCompleteInEveryMode : Obligations.SectorOperationsCompleteInEveryMode := by
  refine ⟨?read, ?write⟩
  case read =>
    intro sec size buf s hsize hbuf
    have hframe := (dataStep_sectorIn sec size.toNat buf s).only
    have hlength := sectorIn_events_length sec size.toNat buf s
    refine ⟨_, _, exec_readSector sec s hsize hbuf, ?_, sectorIn_number sec size.toNat buf s, ?_,
      (sectorIn_mem sec size.toNat buf s).1, busOnly_returns hframe _⟩
    · rw [returns_results, hframe.results]
    · rw [AccessBound, returns_events]
      omega
  case write =>
    intro sec buf s hbuf
    have hframe := (busStep_sectorOut sec buf s).only
    refine ⟨_, _, exec_writeSector sec s hbuf, ?_, sectorOut_number sec buf s,
      sectorOut_events_length sec buf s, busOnly_returns hframe _⟩
    rw [returns_results, hframe.results]

/-- Fields below bit 28 of two sector numbers that agree there. -/
theorem extractLsb'_congr_of_low {sec sec' : Sector}
    (h : sec.extractLsb' 0 28 = sec'.extractLsb' 0 28) {start len : Nat} (hlen : start + len ≤ 28) :
    sec.extractLsb' start len = sec'.extractLsb' start len := by
  apply BitVec.eq_of_getLsbD_eq
  intro i hi
  have hlow : start + i < 28 := by omega
  have hbit : (sec.extractLsb' 0 28).getLsbD (start + i) =
      (sec'.extractLsb' 0 28).getLsbD (start + i) := by rw [h]
  simpa [hi, hlow] using hbit

/-- The address bytes are made of bits 27:0 (R66, R105). -/
theorem addressBytes_congr {sec sec' : Sector} (h : sec.extractLsb' 0 28 = sec'.extractLsb' 0 28) :
    lba0Byte sec = lba0Byte sec' ∧ lba1Byte sec = lba1Byte sec' ∧
      lba2Byte sec = lba2Byte sec' ∧ headNibble sec = headNibble sec' :=
  ⟨extractLsb'_congr_of_low h (by decide), extractLsb'_congr_of_low h (by decide),
    extractLsb'_congr_of_low h (by decide),
    congrArg (BitVec.setWidth 8) (extractLsb'_congr_of_low h (by decide))⟩

/-- Settles O30: the sector number reaches the drive through its address bytes only. -/
theorem sectorBitsAbove27AreDropped : Obligations.SectorBitsAbove27AreDropped := by
  intro sec sec' size buf s hbits
  obtain ⟨h0, h1, h2, hhead⟩ := addressBytes_congr hbits
  have hread : loadAddrRead sec = loadAddrRead sec' := by
    funext t; simp only [loadAddrRead, headByteForced, h0, h1, h2, hhead]
  have hwrite : loadAddrWrite sec = loadAddrWrite sec' := by
    funext t; simp only [loadAddrWrite, headByteKept, h0, h1, h2, hhead]
  have hin : sectorIn sec = sectorIn sec' := by
    funext n b t; simp only [sectorIn, hread]
  have hout : sectorOut sec = sectorOut sec' := by
    funext b t; simp only [sectorOut, hwrite]
  constructor
  · simp only [exec, execReadSector, hin]
  · simp only [exec, execWriteSector, hout]

end Sys2Proof.Machine
end

section
/-! PROOFS. The multi-sector operations and the block operations (R197 to R199, R256, R257): each is a sector operation
at its cursor, which then advances. -/

namespace Sys2Proof.Machine

open Sys2Proof

theorem exec_readMultiple {buf : Buffer} (sec : Sector) (s : State) (hbuf : 512 ≤ buf.cap.toNat) :
    exec (.readMultiple sec buf) s =
      .next (returns (.number (multipleIn sec buf s).2) (multipleIn sec buf s).1) :=
  withBuffer_holds (multipleIn sec buf) s hbuf

theorem exec_writeMultiple {buf : Buffer} (sec : Sector) (s : State) (hbuf : 512 ≤ buf.cap.toNat) :
    exec (.writeMultiple sec buf) s =
      .next (returns (.number (multipleOut sec buf s).2) (multipleOut sec buf s).1) :=
  withBuffer_holds (multipleOut sec buf) s hbuf

/-- `readMultiple` is a sector read at the anchored cursor, and the cursor then advances (R197). -/
theorem multipleIn_eq (sec : Sector) (buf : Buffer) (s : State) :
    multipleIn sec buf s =
      ({ (sectorIn (s.rcur.anchored sec).current sectorSize buf s).1 with
          rcur := (s.rcur.anchored sec).advanced },
        (sectorIn (s.rcur.anchored sec).current sectorSize buf s).2) := by
  simp only [multipleIn, sectorIn_rcur]

/-- `writeMultiple` is a sector write at the anchored cursor, and the cursor then advances (R198). -/
theorem multipleOut_eq (sec : Sector) (buf : Buffer) (s : State) :
    multipleOut sec buf s =
      ({ (sectorOut (s.wcur.anchored sec).current buf s).1 with
          wcur := (s.wcur.anchored sec).advanced },
        (sectorOut (s.wcur.anchored sec).current buf s).2) := by
  simp only [multipleOut, sectorOut_wcur]

/-- Settles O31: the sector read does not look at the cursor, which is anchored before it and advances after. -/
theorem readMultipleReadsAtTheCursor : Obligations.ReadMultipleReadsAtTheCursor := by
  intro sec buf s hbuf
  refine ⟨_, _, rfl, exec_readSector _ s (by decide) hbuf, ?_⟩
  rw [exec_readMultiple sec s hbuf, multipleIn_eq, Cursor.anchored_advanced,
    Cursor.anchored_current]
  rfl

/-- Settles O32: the same of the sector write and the write cursor. -/
theorem writeMultipleWritesAtTheCursor : Obligations.WriteMultipleWritesAtTheCursor := by
  intro sec buf s hbuf
  refine ⟨_, _, rfl, exec_writeSector _ s hbuf, ?_⟩
  rw [exec_writeMultiple sec s hbuf, multipleOut_eq, Cursor.anchored_advanced,
    Cursor.anchored_current]
  rfl

theorem rcur_of_exec_readMultiple {sec : Sector} {buf : Buffer} {s t : State}
    (hexec : exec (.readMultiple sec buf) s = .next t) :
    t.rcur = (s.rcur.anchored sec).advanced := by
  rw [withBuffer_next hexec, returns_rcur]
  exact (multipleIn_frame sec buf s).rcur

theorem wcur_of_exec_writeMultiple {sec : Sector} {buf : Buffer} {s t : State}
    (hexec : exec (.writeMultiple sec buf) s = .next t) :
    t.wcur = (s.wcur.anchored sec).advanced := by
  rw [withBuffer_next hexec, returns_wcur]
  exact (multipleOut_frame sec buf s).wcur

/-- A cursor after two calls (R199 a, b, d): the anchor is the second start, and the current sector goes one further
for the same start and begins after the start for another. -/
theorem Cursor.anchored_advanced_twice (c : Cursor) (sec sec' : Sector) :
    let first := (c.anchored sec).advanced
    let second := (first.anchored sec').advanced
    second.anchor = sec' ∧
      second.current = if sec' = sec then first.current + 1 else sec' + 1 := by
  simp only [Cursor.anchored_advanced, true_and]
  split <;> rfl

/-- Settles O33: the cursor of each direction after two calls of its operation. -/
theorem sameStartContinuesOtherStartRestarts :
    Obligations.SameStartContinuesOtherStartRestarts := by
  intro sec sec' buf buf' s t u
  constructor
  · intro hfirst hsecond
    rw [rcur_of_exec_readMultiple hsecond, rcur_of_exec_readMultiple hfirst]
    exact s.rcur.anchored_advanced_twice sec sec'
  · intro hfirst hsecond
    rw [wcur_of_exec_writeMultiple hsecond, wcur_of_exec_writeMultiple hfirst]
    exact s.wcur.anchored_advanced_twice sec sec'

/-- `sendBlock` within its contract (R256). -/
theorem exec_sendBlock {buf : Buffer} (len : BitVec 16) (s : State) (hbuf : 512 ≤ buf.cap.toNat) :
    exec (.sendBlock buf len) s =
      .next (returns (.number (multipleOut s.arg buf s).2) (multipleOut s.arg buf s).1) :=
  withBuffer_holds (multipleOut s.arg buf) s hbuf

/-- `receiveBlock` within its contract (R257): the read starts in the state with the flag set. -/
theorem exec_receiveBlock {buf : Buffer} (len : BitVec 16) (s : State)
    (hbuf : 512 ≤ buf.cap.toNat) :
    exec (.receiveBlock buf len) s =
      .next (returns (.number (multipleIn s.arg buf (beginReadSession s)).2)
        (multipleIn s.arg buf (beginReadSession s)).1) :=
  withBuffer_holds (fun t => multipleIn t.arg buf (beginReadSession t)) s hbuf

/-- Settles O51: both run the write at the cursor from the argument. -/
theorem sendBlockWritesAtTheArgument : Obligations.SendBlockWritesAtTheArgument := by
  intro buf len s hbuf
  exact ⟨_, exec_writeMultiple s.arg s hbuf, exec_sendBlock len s hbuf⟩

/-- Settles O52: both run the read from the state with the flag set, and a read leaves the flag alone. -/
theorem receiveBlockReadsAtTheArgument : Obligations.ReceiveBlockReadsAtTheArgument := by
  intro buf len s hbuf
  refine ⟨_, exec_readMultiple s.arg (beginReadSession s) hbuf, exec_receiveBlock len s hbuf, ?_⟩
  obtain ⟨-, -, -, -, -, -, -, hread, -⟩ :=
    (multipleIn_frame s.arg buf (beginReadSession s)).fields
  exact hread

end Sys2Proof.Machine
end

section
/-! PROOFS. The stream rows that remain (R221, R227, R220) and the FRAME rows: six bytes delivered, then response bytes
(R91, R226, R241). -/

namespace Sys2Proof.Machine

open Sys2Proof

theorem takeToken_startBlock (s : State) : takeToken 0xFC s = startBlock s := if_pos rfl

/-- Settles O34: `0xFC` is the start-of-block token. -/
theorem startTokenCountsABlock : Obligations.StartTokenCountsABlock := by
  intro s hpos
  refine ⟨?count, StreamRow.exec_congr (.consumeByte _) .tokenStartBlock s⟩
  rw [StreamRow.tokenStartBlock.exec_token hpos (by decide), takeToken_startBlock, startBlock]

/-- A byte of no class, taken between frames, is accumulated (R227). -/
theorem consume_strayByte {b : Byte} {s : State} (hpos : s.argPos = 0) (h : IsStrayByte b) :
    consume b s = takeArgByte b s := by
  rw [consume, if_neg (fun hb => h.1 hb.2), if_neg (fun hb => h.2 hb.2), if_pos (by omega)]

/-- Settles O40: the byte is accumulated, which moves to position 1. -/
theorem strayByteIsAccumulated : Obligations.StrayByteIsAccumulated := by
  intro b s hpos htoken hcommand
  refine ⟨?accumulate, StreamRow.exec_congr (.consumeByte b) (.strayByte b) s⟩
  rw [(StreamRow.strayByte b).exec_eq, consume_strayByte hpos ⟨htoken, hcommand⟩, takeArgByte,
    shiftIn_eq, hpos]

/-- Settles O42: the rows of one byte deliver it, and a delivery changes the decoder's elements only. -/
theorem streamRowsNeverTouchTheBus : Obligations.StreamRowsNeverTouchTheBus := by
  intro b i s hrow
  exact ⟨consume b s, hrow.exec_eq s, (StreamRow.consumeByte b).exec_eq s, streamOnly_consume b s⟩

/-- `consumeByte` of each byte of a list, in order, delivers the list. -/
theorem execAll_consumeBytes (bs : List Byte) (s : State) :
    execAll (bs.map .consumeByte) s = .next (consumeAll bs s) := by
  apply execAll_streamRows
  rw [List.forall₂_map_right_iff, List.forall₂_same]
  exact fun b _ => .consumeByte b

/-- Settles O43: the row delivers the bytes of its frame, which between frames leave its code and argument. -/
theorem frameRowsDeliverCodeAndArgument : Obligations.FrameRowsDeliverCodeAndArgument := by
  intro cmd f arg crc s hrow
  have hexec : exec (f arg crc 0) s = .next (consumeAll (frameBytes cmd arg crc) s) := by
    rw [frameRow_exec s hrow, sdCommand_zero]
  refine ⟨⟨_, hexec, execAll_consumeBytes (frameBytes cmd arg crc) s⟩, fun hpos => ?_⟩
  rw [hexec, consumeAll_frameBytes cmd arg crc s hpos]

theorem exec_produceResponseByte (s : State) :
    exec (.produceResponseByte s.cmd) s = .next (answer s) := if_pos rfl

/-- One more response byte asked for is one more answer at the end (R241). -/
theorem sdCommand_succ {n : Byte} (cmd : CmdCode) (arg : CmdArg) (crc : Byte) (s : State)
    (hn : n ≠ 0xFF) : sdCommand cmd arg crc (n + 1) s = answer (sdCommand cmd arg crc n s) := by
  have hcount : (n + 1).toNat = n.toNat + 1 := by bv_omega
  rw [sdCommand, hcount, answers_succ_last, sdCommand]

/-- Settles O44: the further byte is one answer, from the state that the other bytes leave. -/
theorem frameRowsAnswerByTheDispatcher : Obligations.FrameRowsAnswerByTheDispatcher := by
  intro cmd f arg crc n s hrow hn
  refine ⟨_, _, frameRow_exec s hrow arg crc n, exec_produceResponseByte _, ?_⟩
  rw [frameRow_exec s hrow, sdCommand_succ cmd arg crc s hn]

end Sys2Proof.Machine
end

section
/-! PROOFS. What `produceResponseByte` answers, command by command (R240 to R251), and a whole response read from its
start (R108). -/

namespace Sys2Proof.Machine

open Sys2Proof

/-- An answer that emits an entry in some state is that state with the byte answered (R240). -/
theorem answer_of_emitByte {e : Entry} {s t : State} (h : respond s = emitByte e t) :
    answer s = answered e (emit e t).byte (nextCount t.cfg e (t.count.get e)) t := by
  simp only [answer, h, emitByte, emit_state]
  rfl

/-- The command answers with the next byte of an entry, when its arm emits that entry (R240). -/
theorem exec_produceResponseByte_emit {e : Entry} {s : State} (h : respond s = emitByte e s) :
    exec (.produceResponseByte s.cmd) s =
      .next (answered e (emit e s).byte (nextCount s.cfg e (s.count.get e)) s) := by
  rw [exec_produceResponseByte, answer_of_emitByte h]

/-- Settles O46: the arm of each of the codes emits its own entry. -/
theorem fixedResponsesComeFromTheirEntry : Obligations.FixedResponsesComeFromTheirEntry := by
  intro s code e hinv hcode hfixed
  subst hcode
  exact ⟨_, _, emits_emit e s hinv,
    exec_produceResponseByte_emit (respond_fixed s hinv.cfgWf e hfixed)⟩

/-- The entry of READ_MULTIPLE_BLOCK, by the read session (R246). -/
theorem respondReadMultiple_eq (s : State) :
    respondReadMultiple s = emitByte (if s.readInProgress then .readNext else .readFirst) s := by
  unfold respondReadMultiple
  split <;> rfl

/-- Settles O47: the arm of the read code emits the entry of the session. -/
theorem readResponseDependsOnTheSession : Obligations.ReadResponseDependsOnTheSession := by
  intro s hinv hcmd
  have hrespond := (respond_readMultiple s hinv.cfgWf hcmd).trans (respondReadMultiple_eq s)
  exact ⟨_, _, _, rfl, emits_emit _ s hinv, exec_produceResponseByte_emit hrespond⟩

/-- The entry of GO_IDLE_STATE, by the mode found (R243). -/
def goIdleEntry (m : Mode) : Entry := if m = .lba then .idle else .idleErr

theorem respondGoIdle_eq (s : State) :
    respondGoIdle s = emitByte (goIdleEntry (initDrive s.cfg.preferLba s).2)
      (initDrive s.cfg.preferLba s).1 := by
  simp only [respondGoIdle, goIdleEntry]
  split <;> rfl

theorem returns_withResults {s t : State} (h : t.results = s.results) (r : Ret) :
    { returns r t with results := s.results } = t := by
  rw [← h]
  rfl

/-- Settles O45: the arm runs `initialize` and emits the entry of its result. -/
theorem goIdleInitializesThenAnswers : Obligations.GoIdleInitializesThenAnswers := by
  intro s hinv hcmd
  have hrespond := (respond_goIdle s hcmd).trans (respondGoIdle_eq s)
  have hinit := responseStep_initDrive s.cfg.preferLba s
  obtain ⟨-, -, -, -, -, -, -, -, -, -, hresults⟩ := hinit.fields
  have hinv' := hinv.of_response hinit
  refine ⟨_, (initDrive s.cfg.preferLba s).2, _, _, _, exec_initializeDrive s.cfg.preferLba s,
    ?results, rfl, emits_emit _ _ (hinv'.withResults _), ?answer⟩
  case results => rw [returns_results, hresults]
  case answer =>
    rw [exec_produceResponseByte, returns_withResults hresults, answer_of_emitByte hrespond]
    rfl

/-- The entry of WRITE_MULTIPLE_BLOCK, by the write session (R247). -/
def writeEntry (s : State) : Entry :=
  if s.writeInProgress then .wrNext else if s.sectorsWritten = 0 then .wrStart
  else if s.sectorsWritten = 1 then .wrEnd1 else .wrEndN

/-- The two entries whose last byte closes the write session (R247). -/
abbrev IsClosing (e : Entry) : Prop := e = .wrEnd1 ∨ e = .wrEndN

theorem respondWriteMultiple_eq (s : State) :
    respondWriteMultiple s =
      if IsClosing (writeEntry s) then emitClosing (writeEntry s) s
      else emitByte (writeEntry s) s := by
  unfold respondWriteMultiple writeEntry
  by_cases hmid : s.writeInProgress
  · simp [hmid]
  by_cases hnone : s.sectorsWritten = 0
  · simp [hmid, hnone]
  by_cases hone : s.sectorsWritten = 1
  · simp [hmid, hone]
  · simp [hmid, hnone, hone]

theorem nextCount_eq_zero_iff {c : Config} {e : Entry} {k : Nat} :
    nextCount c e k = 0 ↔ k + 1 = c.respLen e := by
  unfold nextCount
  split <;> simp [*]

/-- An answer from a closing entry: the cursor comes back to 0 with the last byte, which resets the count (R247). -/
theorem answer_emitClosing {e : Entry} {s : State} (h : respond s = emitClosing e s) :
    answer s = { answered e (emit e s).byte (nextCount s.cfg e (s.count.get e)) s with
      sectorsWritten :=
        if nextCount s.cfg e (s.count.get e) = 0 then 0 else s.sectorsWritten } := by
  simp only [answer, h, emitClosing, emit_done, decide_eq_true_eq, nextCount_eq_zero_iff]
  split <;> (rw [emit_state]; rfl)

/-- Settles O48: the arm of the write code emits the entry of the session, and a closing one resets the count. -/
theorem writeResponseDependsOnTheSession : Obligations.WriteResponseDependsOnTheSession := by
  intro s hinv hcmd
  have hrespond := (respond_writeMultiple s hinv.cfgWf hcmd).trans (respondWriteMultiple_eq s)
  refine ⟨writeEntry s, _, _, emits_emit _ s hinv, rfl, ?_⟩
  rw [exec_produceResponseByte]
  by_cases hclosing : IsClosing (writeEntry s)
  · rw [if_pos hclosing] at hrespond
    simp only [answer_emitClosing hrespond, hclosing, true_and]
  · rw [if_neg hclosing] at hrespond
    rw [answer_emit _ s hrespond, if_neg fun h => hclosing h.1]
    rfl

theorem respond_unrecognized {s : State} (h : s.cmd ∉ s.cfg.sdCodes) :
    respond s = respondUnrecognized s := by
  simp only [Config.sdCodes, List.mem_cons, List.not_mem_nil, or_false, not_or] at h
  simp only [respond, h, if_false]

/-- Settles O49: a code that is none of the eight reaches the default arm. -/
theorem unrecognizedCommandAnswersNull : Obligations.UnrecognizedCommandAnswersNull := by
  intro s hcmd
  rw [exec_produceResponseByte, answer, respond_unrecognized hcmd]
  rfl

theorem payload_length {c : Config} {e : Entry} {l : Byte} {payload : List Byte} (hc : c.Wf)
    (hrow : c.resp.get e = l :: payload) : payload.length = l.toNat := by
  have hform := Config.Wf.row hc e
  rw [hrow] at hform
  exact hform.2

/-- Entry `e` has the payload that follows its length byte (R108). -/
theorem emit_byte_payload {e : Entry} {s : State} {l : Byte} {payload : List Byte}
    (hrow : s.cfg.resp.get e = l :: payload) (hk : s.count.get e < payload.length) :
    (emit e s).byte = payload[s.count.get e] := by
  simp [emit_byte, respByte, hrow, hk]

/-- A fixed response read from cursor `k` to its end gives its payload from byte `k` on, and leaves its cursor at 0
(R240, R108). -/
theorem execAll_fixedResponse {e : Entry} {l : Byte} {payload : List Byte} {code : CmdCode}
    (n : Nat) {s : State} (hinv : s.Inv) (hcode : s.cmd = code) (hfixed : (code, e) ∈ fixedEntries s.cfg)
    (hrow : s.cfg.resp.get e = l :: payload) (hn : s.count.get e + n = l.toNat) :
    execAll (List.replicate n (.produceResponseByte code)) s =
      .next { s with
        count := s.count.set e 0
        results := ((payload.drop (s.count.get e)).map Ret.byte).reverse ++ s.results } := by
  have hlen : s.cfg.respLen e = l.toNat := by rw [Config.respLen, hrow]
  have hpayload := payload_length hinv.cfgWf hrow
  induction n generalizing s with
  | zero => exact absurd hn (hlen ▸ hinv.countBound e).ne
  | succ n ih =>
    subst hcode
    have hstep := exec_produceResponseByte_emit (respond_fixed s hinv.cfgWf e hfixed)
    rw [emit_byte_payload hrow (by omega)] at hstep
    rw [List.replicate_succ, execAll_cons_of_next hstep, List.drop_eq_getElem_cons (by omega)]
    by_cases hlast : s.count.get e + 1 = l.toNat
    · obtain rfl : n = 0 := by omega
      rw [nextCount_last (hlast.trans hlen.symm), List.drop_eq_nil_of_le (by omega)]
      rfl
    · rw [nextCount_lt (by omega)] at hstep ⊢
      have hcursor : (s.count.set e (s.count.get e + 1)).get e = s.count.get e + 1 :=
        PerEntry.get_set_self _ _ _
      rw [ih (exec_inv hinv hstep) rfl hfixed hrow (by rw [answered, hcursor]; omega) hlen]
      simp only [answered, hcursor, PerEntry.set_set, List.map_cons, List.reverse_cons,
        List.append_assoc, List.singleton_append]

/-- Settles O50: read from its start, the response is the whole payload. -/
theorem wholeResponseIsThePayload : Obligations.WholeResponseIsThePayload := by
  intro s code e l payload hinv hcode hfixed hrow hstart
  rw [execAll_fixedResponse l.toNat hinv hcode hfixed hrow (by rw [hstart, Nat.zero_add])]
  simp only [hstart, List.drop_zero]
  rw [← hstart, PerEntry.set_get]

end Sys2Proof.Machine
end

section
/-! PROOFS. Whole sessions (R254, R255): a one-block write from its start token to the end of its closing response, and
the end of a read session. -/

namespace Sys2Proof.Machine

open Sys2Proof

/-- With one sector written and the write ended, the write code answers from the one-sector closing entry (R247). -/
theorem respond_oneSector {s : State} (hc : s.cfg.Wf) (hcmd : s.cmd = s.cfg.sdWriteMultiple)
    (hended : s.writeInProgress = false) (hone : s.sectorsWritten = 1) :
    respond s = emitClosing .wrEnd1 s := by
  simp [respond_writeMultiple s hc hcmd, respondWriteMultiple, hended, hone]

/-- The one-sector closing response, read to its end from cursor `k`, closes the session (R247, R255). -/
theorem execAll_closingResponse (n : Nat) {s : State} (hinv : s.Inv)
    (hcmd : s.cmd = s.cfg.sdWriteMultiple) (hended : s.writeInProgress = false)
    (hone : s.sectorsWritten = 1) (hn : s.count.get .wrEnd1 + n = s.cfg.respLen .wrEnd1) :
    ∃ t, execAll (List.replicate n (.produceResponseByte s.cmd)) s = .next t ∧
      t.sectorsWritten = 0 ∧ t.writeInProgress = false ∧ t.count = s.count.set .wrEnd1 0 := by
  induction n generalizing s with
  | zero => exact absurd hn (hinv.countBound .wrEnd1).ne
  | succ n ih =>
    have hstep := exec_produceResponseByte s
    rw [answer_emitClosing (respond_oneSector hinv.cfgWf hcmd hended hone)] at hstep
    rw [List.replicate_succ, execAll_cons_of_next hstep]
    by_cases hlast : s.count.get .wrEnd1 + 1 = s.cfg.respLen .wrEnd1
    · obtain rfl : n = 0 := by omega
      rw [nextCount_last hlast]
      exact ⟨_, rfl, rfl, hended, rfl⟩
    · rw [nextCount_lt (by omega), if_neg (by omega)] at hstep ⊢
      obtain ⟨t, hrest, hsectors, hwrite, hcount⟩ := ih (exec_inv hinv hstep) hcmd hended hone
        (by simp only [answered, PerEntry.get_set_self]; omega)
      exact ⟨t, hrest, hsectors, hwrite,
        hcount.trans (PerEntry.set_set s.count .wrEnd1 (s.count.get .wrEnd1 + 1) 0)⟩

/-- A block sent leaves the decoder, the write session and the emission cursors alone, whatever the drive answers. -/
theorem exec_sendBlock_keeps {buf : Buffer} (len : BitVec 16) (s : State)
    (hbuf : 512 ≤ buf.cap.toNat) :
    ∃ t, exec (.sendBlock buf len) s = .next t ∧ t.argPos = s.argPos ∧ t.cmd = s.cmd ∧
      t.sectorsWritten = s.sectorsWritten ∧ t.count = s.count ∧ t.cfg = s.cfg := by
  obtain ⟨-, -, -, -, hpos, hcmd, -, -, -, hsectors, hcount, hcfg, -⟩ :=
    (multipleOut_frame s.arg buf s).only.fields
  exact ⟨_, exec_sendBlock len s hbuf, hpos, hcmd, hsectors, hcount, hcfg⟩

/-- Settles O53: start token, block and stop token lead to the one-sector closing response, which is then read from
its start. -/
theorem oneBlockWriteSessionCloses : Obligations.OneBlockWriteSessionCloses := by
  intro s buf len hinv hbuf hpos hcmd hsectors hstart
  obtain ⟨hcounted, -⟩ := startTokenCountsABlock s hpos
  obtain ⟨u, hsent, hposu, hcmdu, hsectorsu, hcountu, hcfgu⟩ :=
    exec_sendBlock_keeps len (startBlock s) hbuf
  obtain ⟨hstopped, -⟩ := clearingTokensClearTheirFlag u (hposu.trans hpos)
  have hinv' : (stopTran u).Inv := exec_inv (exec_inv (exec_inv hinv hcounted) hsent) hstopped
  obtain ⟨t, hresponse, hclosed, hended, hcount⟩ :=
    execAll_closingResponse (s.cfg.respLen .wrEnd1) hinv'
      (by simpa [hcmdu, hcfgu] using hcmd) rfl (by simp [hsectorsu, hsectors])
      (by simp [hcountu, hstart, hcfgu])
  refine ⟨t, ?run, hclosed, hended, ?cursors⟩
  case run =>
    rw [List.cons_append, List.cons_append, List.cons_append, List.nil_append,
      execAll_cons_of_next hcounted]
    refine (execAll_cons_of_next hsent _).trans ((execAll_cons_of_next hstopped _).trans ?_)
    have hcode : (stopTran u).cmd = s.cmd := hcmdu
    rw [← hcode]
    exact hresponse
  case cursors =>
    rw [hcount, stopTran_count, hcountu, startBlock_count, ← hstart, PerEntry.set_get]

/-- Between frames the idle byte ends the read session under the stop-transmission command (R223). -/
theorem exec_tokenIdleFF_of_stop {s : State} (hpos : s.argPos = 0)
    (hcmd : s.cmd = s.cfg.sdStopTransmission) :
    exec .tokenIdleFF s = .next { s with readInProgress := false } := by
  obtain ⟨-, hidle, -⟩ := clearingTokensClearTheirFlag s hpos
  exact hidle hcmd

/-- Settles O54: the frame and its response leave the session flag and the command, so the idle byte ends the session. -/
theorem readSessionEndsAtTheIdleByte : Obligations.ReadSessionEndsAtTheIdleByte := by
  intro arg crc s hc hpos hread
  have hframe : exec (.stopTransmission arg crc 0) s =
      .next { s with cmd := s.cfg.sdStopTransmission, arg := arg } := by
    rw [frameRow_exec s .stopTransmission, sdCommand_zero, consumeAll_frameBytes _ _ _ s hpos]
  have hrespond := respond_fixed { s with cmd := s.cfg.sdStopTransmission, arg := arg } hc .stop
    (by simp [fixedEntries])
  exact ⟨_, _, hframe, hread, exec_produceResponseByte_emit hrespond, hread,
    exec_tokenIdleFF_of_stop hpos rfl⟩

end Sys2Proof.Machine
end

section
/-! PROOFS. The state after reset (R45, R46). -/

namespace Sys2Proof.Machine

open Sys2Proof

theorem reset_count (e : Entry) : State.reset.count.get e = 0 := PerEntry.get_of _ e

/-- Settles O1: each element of the reset table by its definition, the cursors by their entry. -/
theorem resetLeavesTheTableOfR45 : Obligations.ResetLeavesTheTableOfR45 :=
  ⟨rfl, rfl, rfl, rfl, rfl, rfl, rfl, rfl, rfl, rfl, rfl, rfl, rfl, rfl, rfl, reset_count⟩

theorem reset_inv : State.reset.Inv where
  cfgWf := default_wf
  argPosBound := Nat.zero_le 5
  countBound := fun e => by
    rw [reset_count]
    exact Config.Wf.respLen_pos default_wf e
  memWf := reset_hostMem_wf

theorem reset_strobesIdle : State.reset.StrobesIdle := ⟨nofun, nofun⟩

/-- Settles O2: the default configuration is well formed, and no strobe is driven after reset. -/
theorem resetMeetsTheInvariants : Obligations.ResetMeetsTheInvariants :=
  ⟨reset_inv, reset_strobesIdle, reset_strobesIdle.not_busContention⟩

end Sys2Proof.Machine
end
